-- ==== Sys2Proof/Word.lean ====
section
/-! DEFINITION. The word types of the engine (spec/00_scope.md R10): levels and flags of one bit, bytes, the 16-bit
command and status words, the 5-bit line-op words, and the two directions of a line. -/

namespace Sys2Proof

/-- A level or a one-bit field: 0 or 1 (R10). For an acknowledge, 0 is ACK and 1 is NACK (R12). -/
abbrev Bit := BitVec 1

/-- A byte moved on the bus (R63). -/
abbrev Byte := BitVec 8

/-- A 7-bit I2C target address (R66). -/
abbrev Address := BitVec 7

/-- A command word or a status word (R70, R26). -/
abbrev Word := BitVec 16

/-- A line-op word on the line-op port (R78). -/
abbrev LopWord := BitVec 5

/-- The direction of a line: the spec's `IN` and `OUT` (R10). -/
inductive Dir where
  | input
  | output
deriving DecidableEq, Repr

end Sys2Proof
end

