-- ==== Sys2Proof/Config.lean ====
section
/-! DEFINITION. What an implementation fixes (spec/00_scope.md R9) and the free values. The OPEN parameters and the free
draws are opaque: nothing in Lean can evaluate them, so every theorem holds for every value. -/

namespace Sys2Proof

/-- The sixteen hold sites of R83. -/
inductive HoldSite where
  | staSu | staHd | stoSu | stoBuf
  | wbLow | wbData | wbHigh
  | raLow | raHigh
  | rbLow | rbHigh
  | saLow | saData | saHigh
  | brLow | brHigh
deriving DecidableEq, Repr

/-- OPEN parameter (R9, D11): whether a hold site's multiplier is 2 rather than 1. `Machine.holdMult` turns it into
HOLD_MULT, which so stays in {1, 2}. Log 5. -/
opaque Config.holdDouble : HoldSite → Bool

/-- OPEN parameter (R9, D12): HOLD_UNIT, in whatever unit of time the Line Driver is calibrated in. No rule reads it
(R235). Log 5. -/
opaque Config.holdUnit : Nat

/-- Free value (R38, D23, I3): the bit the n-th draw from the peers returns, under no law. Log 4. -/
opaque Config.sampledBit : Nat → Bit

/-- RECOVERY_PULSES (R9): fixed by the source. -/
def Config.recoveryPulses : Nat := 9

end Sys2Proof
end

