-- ==== Sys2Proof/Syntax.lean ====
section
/-! DEFINITION. The instructions: one constructor per row of spec/opcode_table.json, the eight commands the host offers
(spec/30_encoding.md R71) and the six line operations the Line Driver performs (spec/20_memory.md R51). -/

namespace Sys2Proof

/-- The rows of the opcode table. -/
inductive Instr where
  /-- CONFIGURE: both lines outputs and high (R120). -/
  | configure
  /-- START: make a START condition (R121). -/
  | start
  /-- STOP: make a STOP condition, leave the bus idle (R122). -/
  | stop
  /-- WRITE_BYTE: send `b`, receive the acknowledge (R132). -/
  | writeByte (b : Byte)
  /-- READ_BYTE: receive a byte, send the acknowledge `k` (R135). -/
  | readByte (k : Bit)
  /-- WRITE_ADDRESS: send the address byte of `a`, write direction (R160). -/
  | writeAddress (a : Address)
  /-- READ_ADDRESS: send the address byte of `a`, read direction (R161). -/
  | readAddress (a : Address)
  /-- BUS_RESET: nine recovery clocks, START, STOP (R151). -/
  | busReset
  /-- HOLD: wait `m` hold units (R52). -/
  | hold (m : BitVec 2)
  /-- DIR_SDA: set SDA's direction latch (R53). -/
  | dirSda (d : Dir)
  /-- DIR_SCL: set SCL's direction latch (R54). -/
  | dirScl (d : Dir)
  /-- SCL_LVL: set SCL's level latch (R55). -/
  | sclLvl (v : Bit)
  /-- SDA_LVL: set SDA's level latch (R56). -/
  | sdaLvl (v : Bit)
  /-- GET_SDA: sample SDA (R57). -/
  | getSda
deriving DecidableEq, Repr

end Sys2Proof
end

