-- ==== Sys2Proof/WellFormed.lean ====
section
/-! DEFINITION. Which instruction terms are well formed. Operand widths are in the types of `Instr`; the one check left is
the multiplier of a HOLD, which is 1 or 2 (spec/20_memory.md R51, spec/30_encoding.md R78). -/

namespace Sys2Proof

/-- Which rows are commands, taken from the command port (R71); the others are line ops (R51). -/
def Instr.isCommand : Instr → Bool
  | .configure | .start | .stop | .writeByte _ | .readByte _ | .writeAddress _ | .readAddress _ | .busReset => true
  | .hold _ | .dirSda _ | .dirScl _ | .sclLvl _ | .sdaLvl _ | .getSda => false

/-- A HOLD carries multiplier 1 or 2 (R51, R78); every other term is well formed by its type. -/
def Instr.wellFormed : Instr → Bool
  | .hold m => m == 1#2 || m == 2#2
  | .configure | .start | .stop | .writeByte _ | .readByte _ | .writeAddress _ | .readAddress _ | .busReset
  | .dirSda _ | .dirScl _ | .sclLvl _ | .sdaLvl _ | .getSda => true

end Sys2Proof
end

