-- ==== Sys2Proof/Decode.lean ====
section
/-! DEFINITION. The decoder and the encoder of command words (spec/30_encoding.md R70 to R75) and line-op words (R78).
A word stands on one of two ports, and the port says which table it is read by. -/

namespace Sys2Proof

/-- A word on a port: a 16-bit word on the command port (R70) or a 5-bit word on the line-op port (R78). -/
inductive PortWord where
  | command (c : Word)
  | lineOp (w : LopWord)
deriving DecidableEq, Repr

/-- Why a word is no instruction (R74; R78 for line-op words). -/
inductive DecodeError where
  /-- OP is 0x0 or 0x9 to 0xF (R74). -/
  | reservedOpcode
  /-- RSV is not 0 (R74). -/
  | reservedField
  /-- ACKSEL is 1 in a command other than READ_BYTE (R74). -/
  | unusedAckSel
  /-- DATA, or DATA[7] of an address command, is not 0 where the command does not use it (R74). -/
  | unusedData
  /-- KIND is 6 or 7: outside the table of R78. -/
  | reservedKind
  /-- ARG holds a value the line op has no use for: outside the table of R78. -/
  | unusedArg
deriving DecidableEq, Repr

/-! ### Command words -/

/-- OP, bits 3:0 (R70). -/
def opField (c : Word) : BitVec 4 := c.extractLsb' 0 4
/-- ACKSEL, bit 4 (R70). -/
def ackSelField (c : Word) : Bit := c.extractLsb' 4 1
/-- RSV, bits 7:5 (R70). -/
def rsvField (c : Word) : BitVec 3 := c.extractLsb' 5 3
/-- DATA, bits 15:8 (R70). -/
def dataField (c : Word) : Byte := c.extractLsb' 8 8
/-- DATA[6:0], the target address (R70). -/
def addressField (c : Word) : Address := c.extractLsb' 8 7
/-- DATA[7], which must be 0 in an address command (R70). -/
def dataTopField (c : Word) : Bit := c.extractLsb' 15 1

/-- A command with no operand: ACKSEL and DATA must be 0 (R73). -/
def decodePlain (c : Word) (i : Instr) : Except DecodeError Instr :=
  if ackSelField c ≠ 0#1 then .error .unusedAckSel
  else if dataField c ≠ 0#8 then .error .unusedData
  else .ok i

/-- A command with a byte operand: ACKSEL must be 0 (R73). -/
def decodeByteOperand (c : Word) (f : Byte → Instr) : Except DecodeError Instr :=
  if ackSelField c ≠ 0#1 then .error .unusedAckSel else .ok (f (dataField c))

/-- A command with an acknowledge operand: DATA must be 0 (R73). -/
def decodeAckOperand (c : Word) (f : Bit → Instr) : Except DecodeError Instr :=
  if dataField c ≠ 0#8 then .error .unusedData else .ok (f (ackSelField c))

/-- A command with an address operand: ACKSEL and DATA[7] must be 0 (R73). -/
def decodeAddressOperand (c : Word) (f : Address → Instr) : Except DecodeError Instr :=
  if ackSelField c ≠ 0#1 then .error .unusedAckSel
  else if dataTopField c ≠ 0#1 then .error .unusedData
  else .ok (f (addressField c))

/-- decode of R73, total on all 65536 words. -/
def decodeCommand (c : Word) : Except DecodeError Instr :=
  if rsvField c ≠ 0#3 then .error .reservedField
  else if opField c = 0x1#4 then decodePlain c .configure
  else if opField c = 0x2#4 then decodePlain c .start
  else if opField c = 0x3#4 then decodePlain c .stop
  else if opField c = 0x4#4 then decodeByteOperand c .writeByte
  else if opField c = 0x5#4 then decodeAckOperand c .readByte
  else if opField c = 0x6#4 then decodeAddressOperand c .writeAddress
  else if opField c = 0x7#4 then decodeAddressOperand c .readAddress
  else if opField c = 0x8#4 then decodePlain c .busReset
  else .error .reservedOpcode

/-! ### Line-op words -/

/-- KIND, bits 2:0 (R78). -/
def kindField (w : LopWord) : BitVec 3 := w.extractLsb' 0 3
/-- ARG, bits 4:3 (R78). -/
def argField (w : LopWord) : BitVec 2 := w.extractLsb' 3 2
/-- The low bit of ARG: a direction or a level (R78). -/
def argBit (w : LopWord) : Bit := w.extractLsb' 3 1
/-- The high bit of ARG, in the mask of every line op but HOLD (R78). -/
def argTop (w : LopWord) : Bit := w.extractLsb' 4 1

/-- 0 is IN and 1 is OUT (R78). -/
def dirOfBit (b : Bit) : Dir := if b = 1#1 then .output else .input
/-- 0 is IN and 1 is OUT (R78). -/
def bitOfDir : Dir → Bit
  | .input => 0#1
  | .output => 1#1

/-- A line op whose argument is one bit: ARG's high bit must be 0 (R78). -/
def decodeBitArg (w : LopWord) (f : Bit → Instr) : Except DecodeError Instr :=
  if argTop w ≠ 0#1 then .error .unusedArg else .ok (f (argBit w))

/-- The decoder of a line-op word, by the match and mask columns of R78. HOLD's mask leaves both bits of ARG free, so any
multiplier is read here; that it is 1 or 2 is `Instr.wellFormed`. Log 6. -/
def decodeLineOp (w : LopWord) : Except DecodeError Instr :=
  if kindField w = 0#3 then .ok (.hold (argField w))
  else if kindField w = 1#3 then decodeBitArg w (fun b => .dirSda (dirOfBit b))
  else if kindField w = 2#3 then decodeBitArg w (fun b => .dirScl (dirOfBit b))
  else if kindField w = 3#3 then decodeBitArg w .sclLvl
  else if kindField w = 4#3 then decodeBitArg w .sdaLvl
  else if kindField w = 5#3 then (if argField w ≠ 0#2 then .error .unusedArg else .ok .getSda)
  else .error .reservedKind

/-- The decoder of both ports. -/
def decode : PortWord → Except DecodeError Instr
  | .command c => decodeCommand c
  | .lineOp w => decodeLineOp w

/-! ### The encoder -/

/-- CONFIGURE's word (R72, R81). -/
def wordConfigure : Word := 0x0001#16
/-- START's word (R72, R81). -/
def wordStart : Word := 0x0002#16
/-- STOP's word (R72, R81). -/
def wordStop : Word := 0x0003#16
/-- WRITE_BYTE's word: DATA is the byte (R72, R81). -/
def wordWriteByte (b : Byte) : Word := b ++ 0x04#8
/-- READ_BYTE's word: ACKSEL is the acknowledge (R72, R81). -/
def wordReadByte (k : Bit) : Word := 0x000#11 ++ k ++ 0x5#4
/-- WRITE_ADDRESS's word: DATA[6:0] is the address (R72, R81). -/
def wordWriteAddress (a : Address) : Word := 0#1 ++ a ++ 0x06#8
/-- READ_ADDRESS's word: DATA[6:0] is the address (R72, R81). -/
def wordReadAddress (a : Address) : Word := 0#1 ++ a ++ 0x07#8
/-- BUS_RESET's word (R72, R81). -/
def wordBusReset : Word := 0x0008#16

/-- The line-op word of a KIND with a one-bit argument (R78). -/
def lopWordOfBit (b : Bit) (kind : BitVec 3) : LopWord := 0#1 ++ b ++ kind

/-- The word of an instruction, on the port it belongs to (R72, R78). -/
def encode : Instr → PortWord
  | .configure => .command wordConfigure
  | .start => .command wordStart
  | .stop => .command wordStop
  | .writeByte b => .command (wordWriteByte b)
  | .readByte k => .command (wordReadByte k)
  | .writeAddress a => .command (wordWriteAddress a)
  | .readAddress a => .command (wordReadAddress a)
  | .busReset => .command wordBusReset
  | .hold m => .lineOp (m ++ 0#3)
  | .dirSda d => .lineOp (lopWordOfBit (bitOfDir d) 1#3)
  | .dirScl d => .lineOp (lopWordOfBit (bitOfDir d) 2#3)
  | .sclLvl v => .lineOp (lopWordOfBit v 3#3)
  | .sdaLvl v => .lineOp (lopWordOfBit v 4#3)
  | .getSda => .lineOp 5#5

/-- The instruction, or nothing where the word is refused. -/
def decoded (p : PortWord) : Option Instr := (decode p).toOption

/-- The instruction the decoder reads from a row of spec/opcode_table.json whose bits are `w`: a row of at most 8 bits is a
line-op word (format LOP5), a longer one a command word (format CMD16). Bits outside the word must be 0. -/
def decodeTableWord (nbits w : Nat) : Option Instr :=
  if nbits ≤ 8 then
    if w < 32 then decoded (.lineOp (BitVec.ofNat 5 w)) else none
  else
    if w < 65536 then decoded (.command (BitVec.ofNat 16 w)) else none

end Sys2Proof
end

