-- ==== Sys2Proof/Machine/State.lean ====
section
/-! DEFINITION. The state (spec/10_state.md), grouped by the agent that owns it, the reasons a step can stop, and the state
after reset (spec/70_reset_and_hazards.md R220, R222). -/

namespace Sys2Proof.Machine

/-- Engine state (R21 to R25). -/
structure Engine where
  /-- E.BUSY (R21). -/
  busy : Bool
  /-- E.CMD: the command word being executed (R22). -/
  cmd : Word
  /-- E.STEP: the index of the next line op; len(ops) once the last has completed (R23). Log 12. -/
  step : Nat
  /-- E.SHIFT: the shift-in register of READ_BYTE (R24). -/
  shift : Byte
  /-- E.ACKBIT: the acknowledge bit sampled (R25). -/
  ackBit : Bit
deriving DecidableEq, Repr

/-- The stored fields of the status word (R26); BUSY and the reserved bits are not stored (R30, R31). -/
structure Status where
  /-- STATUS.ACK: 0 is ACK, 1 is NACK (R27). -/
  ack : Bit
  /-- STATUS.ILLEGAL (R29). -/
  illegal : Bool
  /-- STATUS.RXDATA (R28). -/
  rxData : Byte
deriving DecidableEq, Repr

/-- Line Driver state: four independent latches (R33 to R37). -/
structure LineDriver where
  /-- LD.SDA_DIR (R33). -/
  sdaDir : Dir
  /-- LD.SDA_LVL (R35). -/
  sdaLvl : Bit
  /-- LD.SCL_DIR (R34). -/
  sclDir : Dir
  /-- LD.SCL_LVL (R36). -/
  sclLvl : Bit
deriving DecidableEq, Repr

/-- What the outside does in one coming step, beyond the host's offers (R213). Log 9. -/
inductive Event where
  /-- Nothing special: the host offers its next word, if any, and the Line Driver completes a line op given to it. -/
  | run
  /-- The host offers no word in this step: cmd_valid = 0 (R111). -/
  | hostIdle
  /-- The Line Driver has not completed the line op in flight: lop_done = 0 (R78, R213, I7). -/
  | stall
  /-- Block reset is asserted (R220); `done` says whether the line op in flight took effect (R221, I5). -/
  | blockReset (done : Bool)
  /-- An agent other than the engine issues a line-op word to the Line Driver (R69, R225). -/
  | lineOp (w : LopWord)
deriving DecidableEq, Repr

/-- One line op the engine issued, with the bit it returned if it was a GET_SDA (R236). -/
structure Issued where
  /-- The line op. -/
  op : Instr
  /-- The bit returned, for a GET_SDA. -/
  sample : Option Bit
deriving DecidableEq, Repr

/-- The whole state. -/
structure State where
  /-- Engine state (R21 to R25). -/
  engine : Engine
  /-- The status word's stored fields (R26). -/
  status : Status
  /-- Line Driver state (R33 to R37). -/
  ld : LineDriver
  /-- lop_sda: the bit of the last GET_SDA the Line Driver completed (R78). Log 3. -/
  lopSda : Bit
  /-- The words of the host's program not yet taken, the one on the command port first (R32, R236). Log 9. -/
  offers : List Word
  /-- What else the outside does in the coming steps, the next first; none listed is `Event.run`. Log 9. -/
  events : List Event
  /-- The bits the peers will return to the coming GET_SDAs, the next first (R38). Log 4. -/
  samples : List Bit
  /-- How many free draws have been taken since `samples` ran out (R38). Log 4. -/
  draws : Nat
  /-- The line ops the engine has issued, the latest first (R236). Log 14. -/
  trace : List Issued
deriving DecidableEq, Repr

/-- Why a step ends in a fault. -/
inductive Fault where
  /-- Raised by a micro-step when BUSY = 1 and E.CMD, E.STEP name no line op (an illegal E.CMD, or E.STEP at or past the end
  of ops(E.CMD)): no rule says what the engine does there, and no run reaches it. Safe. Log 15. -/
  | noMicroStep
deriving DecidableEq, Repr

/-- Why a step is refused. -/
inductive Refusal where
  /-- Raised by `exec` for an instruction that has no meaning yet. Safe. -/
  | notModelled (mnemonic : String)
  /-- Raised by GET_SDA while SDA is an output, as 93_implementation_defined.md I8 says. Safe. Log 7. -/
  | sampleWhileOutput
  /-- Raised by SDA_LVL while SDA is an input, as 93_implementation_defined.md I9 says. Safe. Log 7. -/
  | driveWhileInput
  /-- Raised when an agent other than the engine issues a word outside the table of R78. Safe. Log 8. -/
  | lineOpOutsideTable
deriving DecidableEq, Repr

/-- The engine fields at their reset values (R220). -/
def Engine.reset : Engine := { busy := false, cmd := 0x0000#16, step := 0, shift := 0x00#8, ackBit := 1#1 }

/-- The status fields at their reset values (R220). -/
def Status.reset : Status := { ack := 1#1, illegal := false, rxData := 0x00#8 }

/-- The machine right after power-up and block reset. The engine and status fields are the spec's (R220). The Line Driver
latches are any value in the spec (R222); those named here are a DESIGN CHOICE, log 2. `lopSda` is log 3, `samples` and
`draws` log 4, `offers` and `events` log 9, `trace` log 14. -/
def State.reset : State :=
  { engine := .reset
    status := .reset
    ld := { sdaDir := .input, sdaLvl := 0#1, sclDir := .input, sclLvl := 0#1 }
    lopSda := 0#1
    offers := []
    events := []
    samples := []
    draws := 0
    trace := [] }

end Sys2Proof.Machine
end

