-- ==== Sys2Proof/Machine/Operands.lean ====
section
/-! DEFINITION. Operands: the address byte (spec/30_encoding.md R76, R77), the bits of a byte (spec/20_memory.md R63), the
hold multipliers (R83), and the line-op templates a command's list is made of (spec/40_sequencer.md R109). -/

namespace Sys2Proof.Machine

/-- Bit `i` of a byte, `b[i]` (R10). -/
def bitAt (b : Byte) (i : Nat) : Bit := b.extractLsb' i 1

/-- addr_byte(a, rw) = {a[6:0], rw} (R76). -/
def addrByte (a : Address) (rw : Bit) : Byte := a ++ rw

/-- rw of WRITE_ADDRESS (R77). -/
def rwWrite : Bit := 0#1
/-- rw of READ_ADDRESS (R77). -/
def rwRead : Bit := 1#1

/-- HOLD_MULT(site), 1 or 2 (R9, R83). Log 5. -/
def holdMult (site : HoldSite) : BitVec 2 := if Config.holdDouble site then 2#2 else 1#2

/-- The line-op templates (R109). -/
inductive Template where
  | hold (site : HoldSite)
  | dirSda (d : Dir)
  | dirScl (d : Dir)
  | scl (v : Bit)
  | sda (v : Bit)
  | sampleData
  | sampleAck
deriving DecidableEq, Repr

/-- The line op a template issues (R109). -/
def lineOpOf : Template → Instr
  | .hold site => .hold (holdMult site)
  | .dirSda d => .dirSda d
  | .dirScl d => .dirScl d
  | .scl v => .sclLvl v
  | .sda v => .sdaLvl v
  | .sampleData => .getSda
  | .sampleAck => .getSda

/-- `n` copies of a list (R11). -/
def repeatOps (n : Nat) (l : List Template) : List Template := (List.replicate n l).flatten

/-- The least time a list of templates takes, the sum of HOLD_MULT(site) × HOLD_UNIT over its holds (R52, R234). No rule
of the machine reads it (R235). -/
def minDuration : List Template → Nat
  | [] => 0
  | .hold site :: l => (holdMult site).toNat * Config.holdUnit + minDuration l
  | .dirSda _ :: l | .dirScl _ :: l | .scl _ :: l | .sda _ :: l | .sampleData :: l | .sampleAck :: l => minDuration l

end Sys2Proof.Machine
end

