-- ==== Sys2Proof/Machine/Ops.lean ====
section
/-! DEFINITION. The named operations over the state: the Line Driver's latches (spec/20_memory.md R52 to R57), the free draw
(spec/10_state.md R38), the acceptance of a command word (spec/40_sequencer.md R100, R101), block reset
(spec/70_reset_and_hazards.md R220) and the bus view (spec/10_state.md R39). The engine has no exception to take and none
to return from (spec/60_exceptions.md R200, R205, R206), so there is no operation for either. -/

namespace Sys2Proof.Machine

/-- The outcome of a step or a meaning. -/
abbrev Result := Host.Outcome State Fault Refusal

/-! ### Line Driver latches -/

/-- `LD.SDA_DIR <- d`, and no other latch (R53, R37). -/
def State.setSdaDir (s : State) (d : Dir) : State := { s with ld := { s.ld with sdaDir := d } }
/-- `LD.SCL_DIR <- d` (R54). -/
def State.setSclDir (s : State) (d : Dir) : State := { s with ld := { s.ld with sclDir := d } }
/-- `LD.SCL_LVL <- v` (R55). -/
def State.setSclLvl (s : State) (v : Bit) : State := { s with ld := { s.ld with sclLvl := v } }
/-- `LD.SDA_LVL <- v`, and no other latch (R56, R37). -/
def State.setSdaLvl (s : State) (v : Bit) : State := { s with ld := { s.ld with sdaLvl := v } }

/-! ### The sampled bit -/

/-- The bit the next GET_SDA returns: the peers' next listed bit, or a free draw where none is listed (R38). Log 4. -/
def State.nextSample (s : State) : Bit :=
  match s.samples with
  | b :: _ => b
  | [] => Config.sampledBit s.draws

/-- The state once that bit has been drawn, so that the next draw is a fresh one (R38). -/
def State.dropSample (s : State) : State :=
  match s.samples with
  | _ :: bs => { s with samples := bs }
  | [] => { s with draws := s.draws + 1 }

/-- GET_SDA completes: the drawn bit stands on lop_sda, and no latch changes (R57, R78). -/
def State.sampleSda (s : State) : State := { s.dropSample with lopSda := s.nextSample }

/-! ### The command port -/

/-- cmd_ready (R32). -/
def State.cmdReady (s : State) : Bool := !s.engine.busy

/-- The engine state at the acceptance of a legal word `c` (R100). -/
def Engine.accepting (c : Word) : Engine := { busy := true, cmd := c, step := 0, shift := 0x00#8, ackBit := 1#1 }

/-- The acceptance of a legal word (R100): the engine fields, and STATUS.ILLEGAL cleared. -/
def State.accept (s : State) (c : Word) : State :=
  { s with engine := .accepting c, status := { s.status with illegal := false } }

/-- A legal word on the command port: taken when BUSY = 0, left where it is while BUSY = 1 (R100, R32). Log 17. -/
def takeCommand (c : Word) (s : State) : Result :=
  if s.engine.busy then .next s else .next (s.accept c)

/-- Taking an illegal word: STATUS.ILLEGAL <- 1 and nothing else (R101). -/
def State.takeIllegal (s : State) : State := { s with status := { s.status with illegal := true } }

/-! ### Block reset -/

/-- Every engine and status field at its reset value; the Line Driver and the outside are not touched (R220, R222). -/
def State.resetEngine (s : State) : State := { s with engine := .reset, status := .reset }

/-! ### The bus view -/

/-- master_sda: the level the Line Driver puts on SDA, 1 when released (R39). -/
def LineDriver.masterSda (l : LineDriver) : Bit :=
  match l.sdaDir with
  | .output => l.sdaLvl
  | .input => 1#1

/-- master_scl (R39). -/
def LineDriver.masterScl (l : LineDriver) : Bit :=
  match l.sclDir with
  | .output => l.sclLvl
  | .input => 1#1

/-- bus_sda: the wired-AND of the master and the peers (R39). `peer` is peer_sda: 0 when some peer pulls SDA
low and 1 otherwise. Log 18. -/
def LineDriver.busSda (l : LineDriver) (peer : Bit) : Bit := l.masterSda &&& peer

/-- bus_scl: no peer drives SCL (R39). -/
def LineDriver.busScl (l : LineDriver) : Bit := l.masterScl

/-- What the bus can see in a step (R13). -/
inductive BusCondition where
  | start
  | stop
deriving DecidableEq, Repr

/-- The condition the bus sees, from the latches and the peers' level before and after: bus_scl is 1 before and after, and
bus_sda falls (START) or rises (STOP), whether the master, a peer or both moved it (R13, R39, R154). Log 18. -/
def busCondition (before : LineDriver) (peer : Bit) (after : LineDriver) (peer' : Bit) : Option BusCondition :=
  if before.busScl = 1#1 ∧ after.busScl = 1#1 then
    if before.busSda peer = 1#1 ∧ after.busSda peer' = 0#1 then some .start
    else if before.busSda peer = 0#1 ∧ after.busSda peer' = 1#1 then some .stop
    else none
  else none

end Sys2Proof.Machine
end

