-- ==== Sys2Proof/Machine/ByteTransfer.lean ====
section
/-! DEFINITION. WRITE_BYTE and READ_BYTE with receive-ack and send-ack (spec/42_byte_transfer.md). The one DIR_SDA(IN) of
receive-ack is the one spec/90_conflicts.md C4 settles. -/

namespace Sys2Proof.Machine

/-- BIT_OUT(v) (R130). -/
def bitOut (v : Bit) : List Template := [.scl 0#1, .hold .wbLow, .sda v, .hold .wbData, .scl 1#1, .hold .wbHigh]

/-- RECV_ACK (R131). -/
def recvAck : List Template :=
  [.dirSda .input, .scl 0#1, .hold .raLow, .scl 1#1, .hold .raHigh, .sampleAck, .scl 0#1]

/-- The eight BIT_OUTs of a byte, bit 7 first (R132, R63). -/
def bitsOut (b : Byte) : List Template :=
  bitOut (bitAt b 7) ++ bitOut (bitAt b 6) ++ bitOut (bitAt b 5) ++ bitOut (bitAt b 4) ++
    bitOut (bitAt b 3) ++ bitOut (bitAt b 2) ++ bitOut (bitAt b 1) ++ bitOut (bitAt b 0)

/-- The direction op a byte command begins with (R132, R135). -/
def setDir (d : Dir) : List Template := [.dirSda d]

/-- The SCL(0) after the eighth bit (R132, R135). -/
def endOfBits : List Template := [.scl 0#1]

/-- WRITE_SEQ(b) (R132). -/
def writeSeq (b : Byte) : List Template := setDir .output ++ bitsOut b ++ endOfBits ++ recvAck

/-- BIT_IN (R133). -/
def bitIn : List Template := [.scl 0#1, .hold .rbLow, .scl 1#1, .hold .rbHigh, .sampleData]

/-- SEND_ACK(k) (R134). -/
def sendAck (k : Bit) : List Template :=
  [.dirSda .output, .scl 0#1, .hold .saLow, .sda k, .hold .saData, .scl 1#1, .hold .saHigh, .scl 0#1]

/-- READ_SEQ(k) (R135). -/
def readSeq (k : Bit) : List Template := setDir .input ++ repeatOps 8 bitIn ++ endOfBits ++ sendAck k

/-- WRITE_BYTE on the command port (R100, R132). Log 1. -/
def execWriteByte (b : Byte) (s : State) : Result := takeCommand (wordWriteByte b) s

/-- READ_BYTE on the command port (R100, R135). Log 1. -/
def execReadByte (k : Bit) (s : State) : Result := takeCommand (wordReadByte k) s

end Sys2Proof.Machine
end

