-- ==== Sys2Proof/Machine/AddressPhase.lean ====
section
/-! DEFINITION. WRITE_ADDRESS and READ_ADDRESS (spec/44_address_phase.md): each is WRITE_SEQ of its address byte (R162). -/

namespace Sys2Proof.Machine

/-- ops(WRITE_ADDRESS a) (R160). -/
def writeAddressOps (a : Address) : List Template := writeSeq (addrByte a rwWrite)

/-- ops(READ_ADDRESS a) (R161). -/
def readAddressOps (a : Address) : List Template := writeSeq (addrByte a rwRead)

/-- WRITE_ADDRESS on the command port (R100, R160). Log 1. -/
def execWriteAddress (a : Address) (s : State) : Result := takeCommand (wordWriteAddress a) s

/-- READ_ADDRESS on the command port (R100, R161). Log 1. -/
def execReadAddress (a : Address) (s : State) : Result := takeCommand (wordReadAddress a) s

end Sys2Proof.Machine
end

