-- ==== Sys2Proof/Machine/StartStop.lean ====
section
/-! DEFINITION. CONFIGURE, START and STOP (spec/41_start_stop.md): the list of line-op templates of each, and its meaning
on the command port. The order of the line ops is the one spec/90_conflicts.md C3 and C7 settle. -/

namespace Sys2Proof.Machine

/-- CONFIGURE_OPS (R120). -/
def configureOps : List Template := [.dirSda .output, .dirScl .output, .sda 1#1, .scl 1#1]

/-- START_OPS (R121). -/
def startOps : List Template :=
  [.dirSda .output, .dirScl .output, .sda 1#1, .scl 1#1, .hold .staSu, .sda 0#1, .hold .staHd]

/-- STOP_OPS (R122). -/
def stopOps : List Template :=
  [.dirSda .output, .dirScl .output, .sda 0#1, .scl 1#1, .hold .stoSu, .sda 1#1, .hold .stoBuf]

/-- CONFIGURE on the command port: taken when BUSY = 0 (R100, R120); its list then runs one micro-step a step. Log 1. -/
def execConfigure (s : State) : Result := takeCommand wordConfigure s

/-- START on the command port (R100, R121). Log 1. -/
def execStart (s : State) : Result := takeCommand wordStart s

/-- STOP on the command port (R100, R122). Log 1. -/
def execStop (s : State) : Result := takeCommand wordStop s

end Sys2Proof.Machine
end

