-- ==== Sys2Proof/Machine/BusRecovery.lean ====
section
/-! DEFINITION. BUS_RESET (spec/43_bus_recovery.md). -/

namespace Sys2Proof.Machine

/-- PULSE (R150). -/
def pulse : List Template := [.scl 0#1, .hold .brLow, .scl 1#1, .hold .brHigh]

/-- The first four line ops: the same list as CONFIGURE_OPS (R151). -/
def linesHigh : List Template := [.dirSda .output, .dirScl .output, .sda 1#1, .scl 1#1]

/-- BUS_RESET_OPS (R151): both lines out and high, the recovery pulses, then START's list and STOP's. -/
def busResetOps : List Template :=
  linesHigh ++ repeatOps Config.recoveryPulses pulse ++ startOps ++ stopOps

/-- BUS_RESET on the command port (R100, R151). Log 1. -/
def execBusReset (s : State) : Result := takeCommand wordBusReset s

end Sys2Proof.Machine
end

