-- ==== Sys2Proof/Machine/LineOps.lean ====
section
/-! DEFINITION. The six line operations the Line Driver performs (spec/20_memory.md R52 to R57). -/

namespace Sys2Proof.Machine

/-- HOLD(m): the Line Driver waits m × HOLD_UNIT and completes; no latch changes and nothing is returned (R52). The model
has no time (R235), so the state is the same after as before. Logs 6 and 16. -/
def execHold (_m : BitVec 2) (s : State) : Result := .next s

/-- DIR_SDA(d): `LD.SDA_DIR <- d` (R53). -/
def execDirSda (d : Dir) (s : State) : Result := .next (s.setSdaDir d)

/-- DIR_SCL(d): `LD.SCL_DIR <- d` (R54). -/
def execDirScl (d : Dir) (s : State) : Result := .next (s.setSclDir d)

/-- SCL_LVL(v): `LD.SCL_LVL <- v` (R55). -/
def execSclLvl (v : Bit) (s : State) : Result := .next (s.setSclLvl v)

/-- SDA_LVL(v): `LD.SDA_LVL <- v` (R56); refused while SDA is an input, as 93_implementation_defined.md I9 says. Log 7. -/
def execSdaLvl (v : Bit) (s : State) : Result :=
  match s.ld.sdaDir with
  | .output => .next (s.setSdaLvl v)
  | .input => .refused .driveWhileInput

/-- GET_SDA: the drawn bit is returned on lop_sda, no latch changes (R57, R78); refused while SDA is an output, as
93_implementation_defined.md I8 says. Log 7. -/
def execGetSda (s : State) : Result :=
  match s.ld.sdaDir with
  | .input => .next s.sampleSda
  | .output => .refused .sampleWhileOutput

end Sys2Proof.Machine
end

