-- ==== Sys2Proof/Machine/Dispatch.lean ====
section
/-! DEFINITION. One arm per instruction: the meaning `exec` gives it. -/

namespace Sys2Proof.Machine

def exec (i : Instr) (s : State) : Host.Outcome State Fault Refusal :=
  match i with
  | .configure => Sys2Proof.Machine.execConfigure s
  | .start => Sys2Proof.Machine.execStart s
  | .stop => Sys2Proof.Machine.execStop s
  | .writeByte b => Sys2Proof.Machine.execWriteByte b s
  | .readByte k => Sys2Proof.Machine.execReadByte k s
  | .writeAddress a => Sys2Proof.Machine.execWriteAddress a s
  | .readAddress a => Sys2Proof.Machine.execReadAddress a s
  | .busReset => Sys2Proof.Machine.execBusReset s
  | .hold m => Sys2Proof.Machine.execHold m s
  | .dirSda d => Sys2Proof.Machine.execDirSda d s
  | .dirScl d => Sys2Proof.Machine.execDirScl d s
  | .sclLvl v => Sys2Proof.Machine.execSclLvl v s
  | .sdaLvl v => Sys2Proof.Machine.execSdaLvl v s
  | .getSda => Sys2Proof.Machine.execGetSda s

end Sys2Proof.Machine
end

