-- ==== Sys2Proof/Machine/Flags.lean ====
section
/-! DEFINITION. The status word (spec/10_state.md R26 to R31, R40): how it reads, and which of its fields a completing
command writes (spec/40_sequencer.md R105). -/

namespace Sys2Proof.Machine

/-- STATUS as the host reads it: BUSY in bit 0, ACK in bit 1, ILLEGAL in bit 2, bits 7:3 read 0, RXDATA in 15:8
(R26, R30, R31). Reading it changes nothing (R65). -/
def State.statusWord (s : State) : Word :=
  s.status.rxData ++ 0#5 ++ BitVec.ofBool s.status.illegal ++ s.status.ack ++ BitVec.ofBool s.engine.busy

/-- `STATUS.ACK <- E.ACKBIT` (R105, R27). -/
def State.writeAck (s : State) : State := { s with status := { s.status with ack := s.engine.ackBit } }

/-- `STATUS.RXDATA <- E.SHIFT` (R105, R28). -/
def State.writeRxData (s : State) : State := { s with status := { s.status with rxData := s.engine.shift } }

/-- The status field the completion of a command writes (R105). The line ops are not commands and complete nothing. -/
def State.writeResult (s : State) : Instr → State
  | .writeByte _ | .writeAddress _ | .readAddress _ => s.writeAck
  | .readByte _ => s.writeRxData
  | .configure | .start | .stop | .busReset => s
  | .hold _ | .dirSda _ | .dirScl _ | .sclLvl _ | .sdaLvl _ | .getSda => s

end Sys2Proof.Machine
end

