-- ==== Sys2Proof/Machine/Sequencer.lean ====
section
/-! DEFINITION. The command sequencer (spec/40_sequencer.md): the list of a command, the micro-step with its sample routing
and completion, the taking of a command word, block reset in a step, and the one step that chooses among them (R111). -/

namespace Sys2Proof.Machine

/-- The list of line-op templates of a command (R102). A line op is not a command and has none. -/
def opsOf : Instr → List Template
  | .configure => configureOps
  | .start => startOps
  | .stop => stopOps
  | .writeByte b => writeSeq b
  | .readByte k => readSeq k
  | .writeAddress a => writeAddressOps a
  | .readAddress a => readAddressOps a
  | .busReset => busResetOps
  | .hold _ | .dirSda _ | .dirScl _ | .sclLvl _ | .sdaLvl _ | .getSda => []

/-- ops(c) of a command word (R102); an illegal word has no line op (R101). -/
def ops (c : Word) : List Template :=
  match decodeCommand c with
  | .ok i => opsOf i
  | .error _ => []

/-! ### The micro-step -/

/-- The template ops(E.CMD)[E.STEP] (R103). -/
def State.template? (s : State) : Option Template := (ops s.engine.cmd)[s.engine.step]?

/-- lop_valid: the engine holds it at 1 while a line op is in flight, that is while BUSY = 1 (R78). -/
def State.lopValid (s : State) : Bool := s.engine.busy

/-- The line op on the line-op port while lop_valid = 1 (R78). -/
def State.lineOp? (s : State) : Option Instr :=
  if s.engine.busy then s.template?.map lineOpOf else none

/-- lop_word: the 5-bit word on the line-op port while lop_valid = 1 (R78). -/
def State.lopWord? (s : State) : Option LopWord :=
  match s.lineOp?.map encode with
  | some (.lineOp w) => some w
  | some (.command _) => none
  | none => none

/-- SAMPLE_DATA: `E.SHIFT <- ((E.SHIFT << 1) | b) mod 256` with the bit on lop_sda (R104, R24). -/
def State.shiftIn (s : State) : State :=
  { s with engine := { s.engine with shift := (s.engine.shift <<< 1) ||| s.lopSda.setWidth 8 } }

/-- SAMPLE_ACK: `E.ACKBIT <- b` with the bit on lop_sda (R104, R25). -/
def State.latchAck (s : State) : State := { s with engine := { s.engine with ackBit := s.lopSda } }

/-- Where the sampled bit goes (R104, R109). -/
def State.route (s : State) : Template → State
  | .sampleData => s.shiftIn
  | .sampleAck => s.latchAck
  | .hold _ | .dirSda _ | .dirScl _ | .scl _ | .sda _ => s

/-- What the observation of a run keeps of a line op once it has completed (R236). Log 14. -/
def State.record (s : State) (t : Template) : State :=
  match t with
  | .sampleData | .sampleAck => { s with trace := { op := lineOpOf t, sample := some s.lopSda } :: s.trace }
  | .hold _ | .dirSda _ | .dirScl _ | .scl _ | .sda _ => { s with trace := { op := lineOpOf t, sample := none } :: s.trace }

/-- `E.STEP <- E.STEP + 1` (R103). -/
def State.advance (s : State) : State := { s with engine := { s.engine with step := s.engine.step + 1 } }

/-- `E.BUSY <- 0` (R105). -/
def State.clearBusy (s : State) : State := { s with engine := { s.engine with busy := false } }

/-- complete() of R105. -/
def State.complete (s : State) : State :=
  match decodeCommand s.engine.cmd with
  | .ok i => (s.writeResult i).clearBusy
  | .error _ => s.clearBusy

/-- What follows a completed line op in the same micro-step: the observation, the routing of its sample, E.STEP, and the
completion of the command after its last line op (R103, R104, R105). -/
def State.retire (s : State) (t : Template) : State :=
  let s' := ((s.record t).route t).advance
  if s'.engine.step = (ops s'.engine.cmd).length then s'.complete else s'

/-- The micro-step of R103: perform one template, then retire it. -/
def microStep (s : State) : Result :=
  match s.template? with
  | none => .fault .noMicroStep
  | some t =>
    match exec (lineOpOf t) s with
    | .next s' => .next (s'.retire t)
    | .fault f => .fault f
    | .refused r => .refused r

/-! ### The command port -/

/-- A word on the command port is taken: a legal one is executed, an illegal one sets STATUS.ILLEGAL (R100, R101). -/
def takeWord (c : Word) (s : State) : Result :=
  match decodeCommand c with
  | .ok i => exec i s
  | .error _ => .next s.takeIllegal

/-- An idle engine: it takes the host's next word, or does nothing (R100, R111). -/
def idleStep (s : State) : Result :=
  match s.offers with
  | [] => .next s
  | c :: cs => takeWord c { s with offers := cs }

/-- What the engine does in a step with no block reset: a micro-step while BUSY = 1, else the command port (R111). -/
def engineStep (s : State) : Result := if s.engine.busy then microStep s else idleStep s

/-! ### The outside -/

/-- The line op in flight takes effect in the Line Driver although the command is abandoned (R221). A line op the Line
Driver refuses takes no effect. Log 11. -/
def State.finishInFlight (s : State) : State :=
  match s.lineOp? with
  | none => s
  | some i =>
    match exec i s with
    | .next s' => s'
    | .fault _ | .refused _ => s

/-- The step in which block reset is asserted (R204, R220, R221). -/
def blockResetStep (done : Bool) (s : State) : Result :=
  .next (if done then s.finishInFlight.resetEngine else s.resetEngine)

/-- A line-op word of another agent: the Line Driver performs it, the engine does nothing (R69, R225). Logs 8 and 9. -/
def lineOpStep (w : LopWord) (s : State) : Result :=
  match decodeLineOp w with
  | .ok i => exec i s
  | .error _ => .refused .lineOpOutsideTable

/-- A step in which lop_done is 0: with a line op in flight the engine holds it and nothing changes (R78, I7); with none
lop_done says nothing. Log 16. -/
def stallStep (s : State) : Result := if s.engine.busy then .next s else idleStep s

/-- A step in which the host offers nothing (R111). -/
def hostIdleStep (s : State) : Result := if s.engine.busy then microStep s else .next s

/-- One step of the machine (R111), with block reset before anything else (R204). -/
def cycle (s : State) : Result :=
  match s.events with
  | [] => engineStep s
  | .run :: es => engineStep { s with events := es }
  | .hostIdle :: es => hostIdleStep { s with events := es }
  | .stall :: es => stallStep { s with events := es }
  | .blockReset done :: es => blockResetStep done { s with events := es }
  | .lineOp w :: es => lineOpStep w { s with events := es }

/-! ### Presenting one word to the machine (the host's probe) -/

/-- The state with the word `c` as the next the host offers to an engine that is ready for it. Log 10. -/
def State.presentCommand (s : State) (c : Word) : State :=
  { s with offers := c :: s.offers, events := .run :: s.events, engine := { s.engine with busy := false } }

/-- SDA's direction as the line op needs it: an input for GET_SDA, an output for SDA_LVL (R56, R57). -/
def dirNeeded (w : LopWord) (d : Dir) : Dir :=
  match decodeLineOp w with
  | .ok .getSda => .input
  | .ok (.sdaLvl _) => .output
  | .ok _ => d
  | .error _ => d

/-- The state with the word `w` as the next on the Line Driver's port, and SDA in the direction that line op needs.
Log 10. -/
def State.presentLineOp (s : State) (w : LopWord) : State :=
  { s with events := .lineOp w :: s.events, ld := { s.ld with sdaDir := dirNeeded w s.ld.sdaDir } }

end Sys2Proof.Machine
end

