-- ==== Sys2Proof/Machine/Step.lean ====
section
/-! DEFINITION. One step of the machine, and the host's way to place one instruction where the next step takes it. -/

namespace Sys2Proof.Machine

/-- One step of the machine (R111). -/
def step (s : State) : Host.Outcome State Fault Refusal := cycle s

/-- The state whose very next step runs the instruction with the bits `w`: a row of at most 8 bits is a line-op word on the
Line Driver's port, a longer one a command word on the command port. Log 10. -/
def State.withFetchWord (s : State) (nbits w : Nat) : State :=
  if nbits ≤ 8 then s.presentLineOp (BitVec.ofNat 5 w) else s.presentCommand (BitVec.ofNat 16 w)

end Sys2Proof.Machine
end

