-- ==== Sys2Proof/Machine/HostProgram.lean ====
section
/-! DEFINITION. Host programs (spec/30_encoding.md R81, R82): the lines an assembler takes, the macros it expands and the
command words it makes. The engine sees only the words. Log 19. -/

namespace Sys2Proof.Machine

/-- A line of R81 that makes at most one word. Immediates are the numbers the host wrote. -/
inductive CommandLine where
  | configure
  | start
  | stop
  | writeByte (imm8 : Nat)
  | readByteAck
  | readByteNack
  | writeAddress (imm7 : Nat)
  | readAddress (imm7 : Nat)
  | busReset
  /-- `.word`: any word, legal or not. -/
  | word (imm16 : Nat)
  /-- A line that starts with `;`. -/
  | comment
deriving DecidableEq, Repr

/-- A line of a host program: a line of R81 or a macro of R82. -/
inductive HostLine where
  | line (l : CommandLine)
  | writeReg (a r v : Nat)
  | readReg (a r : Nat)
  | probe (a : Nat)
deriving DecidableEq, Repr

/-- Macro expansion (R82). -/
def expandLine : HostLine → List CommandLine
  | .line l => [l]
  | .writeReg a r v => [.start, .writeAddress a, .writeByte r, .writeByte v, .stop]
  | .readReg a r => [.start, .writeAddress a, .writeByte r, .start, .readAddress a, .readByteNack, .stop]
  | .probe a => [.start, .writeAddress a, .stop]

/-- The word of a line; an immediate out of range is refused (R81). -/
def assembleLine : CommandLine → Option (List Word)
  | .configure => some [wordConfigure]
  | .start => some [wordStart]
  | .stop => some [wordStop]
  | .writeByte n => if n ≤ 255 then some [wordWriteByte (BitVec.ofNat 8 n)] else none
  | .readByteAck => some [wordReadByte 0#1]
  | .readByteNack => some [wordReadByte 1#1]
  | .writeAddress n => if n ≤ 127 then some [wordWriteAddress (BitVec.ofNat 7 n)] else none
  | .readAddress n => if n ≤ 127 then some [wordReadAddress (BitVec.ofNat 7 n)] else none
  | .busReset => some [wordBusReset]
  | .word n => if n ≤ 65535 then some [BitVec.ofNat 16 n] else none
  | .comment => some []

/-- The words of a list of lines, or nothing where one line is refused. -/
def assembleLines : List CommandLine → Option (List Word)
  | [] => some []
  | l :: ls =>
    match assembleLine l, assembleLines ls with
    | some ws, some rest => some (ws ++ rest)
    | some _, none | none, some _ | none, none => none

/-- The words of a host program (R81, R82). -/
def assemble (p : List HostLine) : Option (List Word) := assembleLines (p.flatMap expandLine)

/-- The state in which the host is about to run a program: its words are the ones not yet taken (R236). -/
def State.withProgram (s : State) (ws : List Word) : State := { s with offers := ws }

end Sys2Proof.Machine
end

