-- ==== Sys2Proof/Safety.lean ====
section
/-! DEFINITION. The terms claims are stated in: runs, the named bus states (spec/41_start_stop.md R125), the end of a run
(spec/70_reset_and_hazards.md R236), what the bus sees along a run (R13), and the invariant of the sequencer. -/

namespace Sys2Proof.Machine

/-- `n` steps of the machine. -/
abbrev runFor (n : Nat) (s : State) : Result := Host.Core.run Sys2Proof.core n s

/-- The engine waits for a command and nothing but the host's offers comes from outside: no block reset, no second agent on
the Line Driver, no wait of the Line Driver (the premises of R237). -/
abbrev State.ready (s : State) : Prop := s.engine.busy = false ∧ s.events = []

/-- A run of a host program has ended (R236). -/
abbrev State.runEnded (s : State) : Prop := s.offers = [] ∧ s.engine.busy = false

/-! ### The named states of R125 -/

/-- IDLE. -/
def LineDriver.idle : LineDriver := { sdaDir := .output, sdaLvl := 1#1, sclDir := .output, sclLvl := 1#1 }
/-- STARTED. -/
def LineDriver.started : LineDriver := { sdaDir := .output, sdaLvl := 0#1, sclDir := .output, sclLvl := 1#1 }
/-- AFTER_WRITE of a byte whose last bit is `b0`. -/
def LineDriver.afterWrite (b0 : Bit) : LineDriver :=
  { sdaDir := .input, sdaLvl := b0, sclDir := .output, sclLvl := 0#1 }
/-- AFTER_READ with the acknowledge `k`. -/
def LineDriver.afterRead (k : Bit) : LineDriver :=
  { sdaDir := .output, sdaLvl := k, sclDir := .output, sclLvl := 0#1 }

/-! ### Samples -/

/-- The state after `n` bits have been drawn and nothing else has happened. -/
def State.afterSamples (s : State) : Nat → State
  | 0 => s
  | n + 1 => (s.afterSamples n).dropSample

/-- The `n`-th bit the peers will return, counted from 0. -/
def State.sampleAt (s : State) (n : Nat) : Bit := (s.afterSamples n).nextSample

/-! ### The observation -/

/-- The line ops issued, the first first (R236). -/
def State.issuedOps (s : State) : List Instr := (s.trace.map Issued.op).reverse

/-- The observation a list of line ops gives when its GET_SDAs return the given bits in order (R236). -/
def observe : List Instr → List Bit → List Issued
  | [], _ => []
  | i :: l, bs =>
    if i = .getSda then { op := i, sample := bs.head? } :: observe l bs.tail
    else { op := i, sample := none } :: observe l bs

/-- The line ops of a command, as issued (R102, R109). -/
def lineOpsOf (i : Instr) : List Instr := (opsOf i).map lineOpOf

/-! The line ops of the commands as the spec lists them, for statements to compare with. -/

/-- CONFIGURE's line ops, and the first four of BUS_RESET (R120, R151). -/
def configureLineOps : List Instr := [.dirSda .output, .dirScl .output, .sdaLvl 1#1, .sclLvl 1#1]

/-- START's line ops (R121). -/
def startLineOps : List Instr :=
  [.dirSda .output, .dirScl .output, .sdaLvl 1#1, .sclLvl 1#1, .hold (holdMult .staSu), .sdaLvl 0#1,
    .hold (holdMult .staHd)]

/-- STOP's line ops (R122). -/
def stopLineOps : List Instr :=
  [.dirSda .output, .dirScl .output, .sdaLvl 0#1, .sclLvl 1#1, .hold (holdMult .stoSu), .sdaLvl 1#1,
    .hold (holdMult .stoBuf)]

/-- One bit shifted out (R130). -/
def bitOutLineOps (v : Bit) : List Instr :=
  [.sclLvl 0#1, .hold (holdMult .wbLow), .sdaLvl v, .hold (holdMult .wbData), .sclLvl 1#1, .hold (holdMult .wbHigh)]

/-- From the SCL(0) after the eighth bit through receive-ack (R131, R132). -/
def recvAckLineOps : List Instr :=
  [.sclLvl 0#1, .dirSda .input, .sclLvl 0#1, .hold (holdMult .raLow), .sclLvl 1#1, .hold (holdMult .raHigh), .getSda,
    .sclLvl 0#1]

/-- A byte shifted out, bit 7 first, with receive-ack (R132). -/
def writeByteLineOps (b : Byte) : List Instr :=
  .dirSda .output :: ([7, 6, 5, 4, 3, 2, 1, 0].flatMap fun i => bitOutLineOps (bitAt b i)).append recvAckLineOps

/-- One bit shifted in (R133). -/
def bitInLineOps : List Instr :=
  [.sclLvl 0#1, .hold (holdMult .rbLow), .sclLvl 1#1, .hold (holdMult .rbHigh), .getSda]

/-- From the SCL(0) after the eighth bit through send-ack (R134, R135). -/
def sendAckLineOps (k : Bit) : List Instr :=
  [.sclLvl 0#1, .dirSda .output, .sclLvl 0#1, .hold (holdMult .saLow), .sdaLvl k, .hold (holdMult .saData), .sclLvl 1#1,
    .hold (holdMult .saHigh), .sclLvl 0#1]

/-- A byte shifted in, with send-ack (R135). -/
def readByteLineOps (k : Bit) : List Instr :=
  .dirSda .input :: (List.replicate 8 bitInLineOps).flatten.append (sendAckLineOps k)

/-- One recovery clock (R150). -/
def pulseLineOps : List Instr := [.sclLvl 0#1, .hold (holdMult .brLow), .sclLvl 1#1, .hold (holdMult .brHigh)]

/-- BUS_RESET's line ops (R151). -/
def busResetLineOps : List Instr :=
  configureLineOps ++ (List.replicate 9 pulseLineOps).flatten ++ startLineOps ++ stopLineOps

/-- The START and STOP conditions of the next `n` steps, each with the number of the step it happens in, counted from `p`.
The peers put `peer m` on SDA before the step number `m` and `peer (m + 1)` after it: any level at any time (R13, R39,
R213). Log 18. -/
def busConditions (peer : Nat → Bit) : Nat → Nat → State → List (Nat × BusCondition)
  | 0, _, _ => []
  | n + 1, p, s =>
    match step s with
    | .next t =>
      match busCondition s.ld (peer p) t.ld (peer (p + 1)) with
      | some c => (p, c) :: busConditions peer n (p + 1) t
      | none => busConditions peer n (p + 1) t
    | .fault _ | .refused _ => []

/-! ### The invariant -/

/-- The direction of SDA that a list of templates leaves, if it sets one. -/
def lastSdaDir : List Template → Option Dir
  | [] => none
  | .dirSda d :: l => (lastSdaDir l).or (some d)
  | .hold _ :: l | .dirScl _ :: l | .scl _ :: l | .sda _ :: l | .sampleData :: l | .sampleAck :: l => lastSdaDir l

/-- Whether an event is a line op of another agent. -/
def Event.isLineOp : Event → Bool
  | .lineOp _ => true
  | .run | .hostIdle | .stall | .blockReset _ => false

/-- The Line Driver is exclusive to the engine in the coming steps (R41, R69). -/
abbrev State.exclusive (s : State) : Prop := s.events.all (fun e => !e.isLineOp) = true

/-- The sequencer's invariant: the Line Driver is exclusive, E.STEP is in range (R23), and while BUSY = 1 a line op is left
to perform and SDA's direction is the one the line ops already performed have set (R56, R57). -/
abbrev State.Inv (s : State) : Prop :=
  s.exclusive ∧ s.engine.step ≤ 57 ∧
    (s.engine.busy = true → s.template?.isSome = true ∧
      (s.engine.step ≠ 0 → lastSdaDir ((ops s.engine.cmd).take s.engine.step) = some s.ld.sdaDir))

/-- The state with everything that came from a sample blanked: what is left must not depend on what the peers did (R102). -/
def State.withoutSamples (s : State) : State :=
  { s with
    engine := { s.engine with shift := 0#8, ackBit := 0#1 }
    status := { s.status with ack := 0#1, rxData := 0#8 }
    lopSda := 0#1
    samples := []
    draws := 0
    trace := s.trace.map (fun e => { e with sample := none }) }

end Sys2Proof.Machine
end

