-- ==== Sys2Proof/Certificates/Slice0/Obligations.lean ====
section
/-! DEFINITION. The statements for the provers, from the numbered rules of spec/. Where a statement gives the whole next
state, that `lopSda` is as before, or the bit of the last GET_SDA, is the model's choice between two samples (log 3). -/

open Sys2Proof Sys2Proof.Machine

/-! ### Words -/

/-- The sample words of 95_test_vectors.md L2.1, decoded as R72 to R74 say. -/
def Obligations.SampleWordsDecode : Prop :=
  decodeCommand 0x0001#16 = .ok .configure ∧ decodeCommand 0x0002#16 = .ok .start ∧
  decodeCommand 0x0003#16 = .ok .stop ∧ decodeCommand 0xA504#16 = .ok (.writeByte 0xA5#8) ∧
  decodeCommand 0x0005#16 = .ok (.readByte 0#1) ∧ decodeCommand 0x0015#16 = .ok (.readByte 1#1) ∧
  decodeCommand 0x7F06#16 = .ok (.writeAddress 0x7F#7) ∧ decodeCommand 0x5007#16 = .ok (.readAddress 0x50#7) ∧
  decodeCommand 0x0008#16 = .ok .busReset ∧ decodeCommand 0x0000#16 = .error .reservedOpcode ∧
  decodeCommand 0x0011#16 = .error .unusedAckSel ∧ decodeCommand 0xA584#16 = .error .reservedField ∧
  decodeCommand 0xFF07#16 = .error .unusedData

/-- The line-op words of R79, all of them. -/
def Obligations.LineOpWordExamples : Prop :=
  encode (.hold 1#2) = .lineOp 0x08#5 ∧ encode (.hold 2#2) = .lineOp 0x10#5 ∧
  encode (.dirSda .output) = .lineOp 0x09#5 ∧ encode (.dirSda .input) = .lineOp 0x01#5 ∧
  encode (.dirScl .output) = .lineOp 0x0A#5 ∧ encode (.sclLvl 0#1) = .lineOp 0x03#5 ∧
  encode (.sclLvl 1#1) = .lineOp 0x0B#5 ∧ encode (.sdaLvl 0#1) = .lineOp 0x04#5 ∧
  encode (.sdaLvl 1#1) = .lineOp 0x0C#5 ∧ encode .getSda = .lineOp 0x05#5 ∧
  decodeLineOp 0x08#5 = .ok (.hold 1#2) ∧ decodeLineOp 0x10#5 = .ok (.hold 2#2) ∧
  decodeLineOp 0x09#5 = .ok (.dirSda .output) ∧ decodeLineOp 0x01#5 = .ok (.dirSda .input) ∧
  decodeLineOp 0x0A#5 = .ok (.dirScl .output) ∧ decodeLineOp 0x03#5 = .ok (.sclLvl 0#1) ∧
  decodeLineOp 0x0B#5 = .ok (.sclLvl 1#1) ∧ decodeLineOp 0x04#5 = .ok (.sdaLvl 0#1) ∧
  decodeLineOp 0x0C#5 = .ok (.sdaLvl 1#1) ∧ decodeLineOp 0x05#5 = .ok .getSda

/-- Decoding an instruction's word gives the instruction back, for every instruction and every operand (R72, R73, R78).
That HOLD 0 and HOLD 3, which R78's ARG column does not name, decode too is the model's choice (log 6). -/
def Obligations.DecodeOfEncode : Prop := ∀ i : Instr, decode (encode i) = .ok i

/-- A word that decodes to an instruction is that instruction's word: each instruction has at most one word, on either
port. -/
def Obligations.EncodeOfDecode : Prop := ∀ (p : PortWord) (i : Instr), decode p = .ok i → encode i = p

/-- The decoders of R73 and R78 and the match and mask tables of R72 and R78 give the same verdict on every word of either
port. -/
def Obligations.MatchMaskVerdict : Prop :=
  (∀ c : Word,
    (decodeCommand c = .ok .configure ↔ c &&& 0xFFFF#16 = 0x0001#16) ∧
    (decodeCommand c = .ok .start ↔ c &&& 0xFFFF#16 = 0x0002#16) ∧
    (decodeCommand c = .ok .stop ↔ c &&& 0xFFFF#16 = 0x0003#16) ∧
    ((∃ b, decodeCommand c = .ok (.writeByte b)) ↔ c &&& 0x00FF#16 = 0x0004#16) ∧
    ((∃ k, decodeCommand c = .ok (.readByte k)) ↔ c &&& 0xFFEF#16 = 0x0005#16) ∧
    ((∃ a, decodeCommand c = .ok (.writeAddress a)) ↔ c &&& 0x80FF#16 = 0x0006#16) ∧
    ((∃ a, decodeCommand c = .ok (.readAddress a)) ↔ c &&& 0x80FF#16 = 0x0007#16) ∧
    (decodeCommand c = .ok .busReset ↔ c &&& 0xFFFF#16 = 0x0008#16)) ∧
  (∀ w : LopWord,
    (∀ m, decodeLineOp w = .ok (.hold m) ↔ w &&& 0b00111#5 = 0b00000#5 ∧ w.extractLsb' 3 2 = m) ∧
    (decodeLineOp w = .ok (.dirSda .input) ↔ w &&& 0b10111#5 = 0b00001#5 ∧ w.extractLsb' 3 1 = 0#1) ∧
    (decodeLineOp w = .ok (.dirSda .output) ↔ w &&& 0b10111#5 = 0b00001#5 ∧ w.extractLsb' 3 1 = 1#1) ∧
    (decodeLineOp w = .ok (.dirScl .input) ↔ w &&& 0b10111#5 = 0b00010#5 ∧ w.extractLsb' 3 1 = 0#1) ∧
    (decodeLineOp w = .ok (.dirScl .output) ↔ w &&& 0b10111#5 = 0b00010#5 ∧ w.extractLsb' 3 1 = 1#1) ∧
    (∀ v, decodeLineOp w = .ok (.sclLvl v) ↔ w &&& 0b10111#5 = 0b00011#5 ∧ w.extractLsb' 3 1 = v) ∧
    (∀ v, decodeLineOp w = .ok (.sdaLvl v) ↔ w &&& 0b10111#5 = 0b00100#5 ∧ w.extractLsb' 3 1 = v) ∧
    (decodeLineOp w = .ok .getSda ↔ w &&& 0b11111#5 = 0b00101#5) ∧
    (∀ i, decodeLineOp w = .ok i → i.isCommand = false))

/-- Which words are illegal: the list of R74. -/
def Obligations.IllegalWordsAreThoseListed : Prop :=
  ∀ c : Word,
    (∃ e, decodeCommand c = .error e) ↔
      (c.extractLsb' 0 4 = 0#4 ∨ 9 ≤ (c.extractLsb' 0 4).toNat) ∨
      c.extractLsb' 5 3 ≠ 0#3 ∨
      (c.extractLsb' 0 4 ≠ 5#4 ∧ c.extractLsb' 4 1 ≠ 0#1) ∨
      ((c.extractLsb' 0 4 = 1#4 ∨ c.extractLsb' 0 4 = 2#4 ∨ c.extractLsb' 0 4 = 3#4 ∨ c.extractLsb' 0 4 = 5#4 ∨
          c.extractLsb' 0 4 = 8#4) ∧ c.extractLsb' 8 8 ≠ 0#8) ∨
      ((c.extractLsb' 0 4 = 6#4 ∨ c.extractLsb' 0 4 = 7#4) ∧ c.extractLsb' 15 1 ≠ 0#1)

/-- The words of a host program: the assembler's lines (R81), where an immediate in range makes the word and one out of
range is refused, and the macros (R82), which make the words of their expansions. -/
def Obligations.HostProgramWords : Prop :=
  (∀ n : Nat, n ≤ 255 → assembleLine (.writeByte n) = some [BitVec.ofNat 16 (n * 256 + 4)]) ∧
  (∀ n : Nat, n ≤ 127 → assembleLine (.writeAddress n) = some [BitVec.ofNat 16 (n * 256 + 6)]) ∧
  (∀ n : Nat, n ≤ 127 → assembleLine (.readAddress n) = some [BitVec.ofNat 16 (n * 256 + 7)]) ∧
  (∀ n : Nat, 255 < n → assembleLine (.writeByte n) = none) ∧
  (∀ n : Nat, 127 < n → assembleLine (.writeAddress n) = none ∧ assembleLine (.readAddress n) = none) ∧
  (∀ n : Nat, n ≤ 65535 → assembleLine (.word n) = some [BitVec.ofNat 16 n]) ∧
  assembleLine .configure = some [0x0001#16] ∧ assembleLine .start = some [0x0002#16] ∧
  assembleLine .stop = some [0x0003#16] ∧ assembleLine .readByteAck = some [0x0005#16] ∧
  assembleLine .readByteNack = some [0x0015#16] ∧ assembleLine .busReset = some [0x0008#16] ∧
  (∀ a r v : Nat, a ≤ 127 → r ≤ 255 → v ≤ 255 →
    assemble [.writeReg a r v] =
      some [0x0002#16, BitVec.ofNat 16 (a * 256 + 6), BitVec.ofNat 16 (r * 256 + 4), BitVec.ofNat 16 (v * 256 + 4),
        0x0003#16] ∧
    assemble [.readReg a r] =
      some [0x0002#16, BitVec.ofNat 16 (a * 256 + 6), BitVec.ofNat 16 (r * 256 + 4), 0x0002#16,
        BitVec.ofNat 16 (a * 256 + 7), 0x0015#16, 0x0003#16] ∧
    assemble [.probe a] = some [0x0002#16, BitVec.ofNat 16 (a * 256 + 6), 0x0003#16])

/-! ### A step runs the decoded instruction -/

/-- When the word the host offers to a ready engine decodes to `i`, the step is exec of `i`, with the word taken off the
host's list before it (R100). -/
def Obligations.StepRunsOfferedCommand : Prop :=
  ∀ (s : State) (c : Word) (cs : List Word) (i : Instr),
    s.ready → s.offers = c :: cs → decodeCommand c = .ok i → step s = exec i { s with offers := cs }

/-- While BUSY = 1 the step runs the line op of ops(E.CMD)[E.STEP] and then, in the same step, routes its sample, adds 1 to
E.STEP, completes the command after its last line op (R103 to R105) and adds the line op to the observation, with the bit
returned if it is a GET_SDA (R236). -/
def Obligations.StepRunsMicroStep : Prop :=
  ∀ (s u : State) (p : Template),
    s.engine.busy = true → s.events = [] → s.template? = some p → exec (lineOpOf p) s = .next u →
    ∃ t, step s = .next t ∧
      t.engine.cmd = s.engine.cmd ∧ t.engine.step = s.engine.step + 1 ∧
      t.engine.shift = (if p = .sampleData then (s.engine.shift <<< 1) ||| u.lopSda.setWidth 8 else s.engine.shift) ∧
      t.engine.ackBit = (if p = .sampleAck then u.lopSda else s.engine.ackBit) ∧
      t.engine.busy = decide (s.engine.step + 1 ≠ (ops s.engine.cmd).length) ∧
      (s.engine.step + 1 ≠ (ops s.engine.cmd).length → t.status = s.status) ∧
      (s.engine.step + 1 = (ops s.engine.cmd).length →
        (∀ b, decodeCommand s.engine.cmd = .ok (.writeByte b) → t.status = { s.status with ack := t.engine.ackBit }) ∧
        (∀ a, decodeCommand s.engine.cmd = .ok (.writeAddress a) →
          t.status = { s.status with ack := t.engine.ackBit }) ∧
        (∀ a, decodeCommand s.engine.cmd = .ok (.readAddress a) →
          t.status = { s.status with ack := t.engine.ackBit }) ∧
        (∀ k, decodeCommand s.engine.cmd = .ok (.readByte k) → t.status = { s.status with rxData := t.engine.shift }) ∧
        (∀ i, decodeCommand s.engine.cmd = .ok i → i = .configure ∨ i = .start ∨ i = .stop ∨ i = .busReset →
          t.status = s.status)) ∧
      t.ld = u.ld ∧ t.lopSda = u.lopSda ∧ t.samples = u.samples ∧ t.draws = u.draws ∧
      t.offers = s.offers ∧ t.events = [] ∧ t.issuedOps = s.issuedOps ++ [lineOpOf p] ∧
      t.trace = { op := lineOpOf p, sample := if lineOpOf p = .getSda then some u.lopSda else none } :: s.trace

/-- When another agent's line-op word decodes to `i`, the step is exec of `i`, with the event taken off the queue before
it, and the engine does not move (R69, R225). The event queue is the model's own (log 9). -/
def Obligations.StepRunsOtherAgentsLineOp : Prop :=
  ∀ (s : State) (w : LopWord) (es : List Event) (i : Instr),
    s.events = .lineOp w :: es → decodeLineOp w = .ok i →
    step s = exec i { s with events := es } ∧
    ∀ t, step s = .next t →
      t.engine = s.engine ∧ t.status = s.status ∧ t.offers = s.offers ∧ t.trace = s.trace ∧ t.events = es

/-- The acceptance of a legal word (R100): what it writes, that it issues no line op, that every legal command has at least
four line ops, and that no word is taken while BUSY = 1. -/
def Obligations.AcceptanceOfLegalWord : Prop :=
  (∀ (s : State) (c : Word) (cs : List Word) (i : Instr),
    s.ready → s.offers = c :: cs → decodeCommand c = .ok i →
      step s = .next { s with
        offers := cs
        engine := { busy := true, cmd := c, step := 0, shift := 0x00#8, ackBit := 1#1 }
        status := { s.status with illegal := false } } ∧
      4 ≤ (ops c).length) ∧
  (∀ s t : State, s.engine.busy = true → step s = .next t → t.offers = s.offers) ∧
  (∀ s : State, s.cmdReady = !s.engine.busy)

/-- An illegal word sets STATUS.ILLEGAL and changes nothing else (R101), and the corner cases R101 names are illegal. -/
def Obligations.IllegalWordSetsIllegalOnly : Prop :=
  (∀ (s : State) (c : Word) (cs : List Word) (e : DecodeError),
    s.ready → s.offers = c :: cs → decodeCommand c = .error e →
      step s = .next { s with offers := cs, status := { s.status with illegal := true } }) ∧
  (∀ c ∈ [0x0000#16, 0x0009#16, 0x000A#16, 0x000B#16, 0x000C#16, 0x000D#16, 0x000E#16, 0x000F#16, 0x0011#16, 0x0025#16,
    0x0105#16, 0x8006#16], ∃ e, decodeCommand c = .error e)

/-- With no command offered, an idle engine does nothing, whether no word is listed or the host leaves the words listed off
the port in this step; a busy engine does not see which (R111). That the host's silence is an event is the model's
(log 9). -/
def Obligations.IdleWithoutOfferDoesNothing : Prop :=
  (∀ s : State, s.ready → s.offers = [] → step s = .next s) ∧
  (∀ (s : State) (es : List Event), s.engine.busy = false → s.events = .hostIdle :: es →
    step s = .next { s with events := es }) ∧
  (∀ (s : State) (es : List Event), s.engine.busy = true → s.events = .hostIdle :: es →
    step s = step { s with events := .run :: es })

/-- What the command port carries while BUSY = 1 has no effect on the step (R67): the step of the state with any other words
on offer is the same step, with those words left. -/
def Obligations.OffersDoNotReachRunningCommand : Prop :=
  ∀ (s : State) (cs : List Word), s.engine.busy = true →
    match step s with
    | .next t => step { s with offers := cs } = .next { t with offers := cs }
    | .fault f => step { s with offers := cs } = .fault f
    | .refused r => step { s with offers := cs } = .refused r

/-- exec of a command while BUSY = 1 answers the same state. No step runs exec so: this is the model's convention for it
(log 17), after R100 and R32, by which a busy engine takes no word. -/
def Obligations.CommandsWaitWhileBusy : Prop :=
  ∀ (i : Instr) (s : State), i.isCommand = true → s.engine.busy = true → exec i s = .next s

/-! ### Completion of the commands -/

/-- CONFIGURE (R120) completes from every ready state: its four line ops, its end state, its observation (R236), and nothing
else changed. -/
def Obligations.ConfigureCompletes : Prop :=
  ∀ s : State, s.ready →
    exec .configure s = .next (s.accept 0x0001#16) ∧
    ∃ t, runFor 4 (s.accept 0x0001#16) = .next t ∧
      t.issuedOps = s.issuedOps ++ configureLineOps ∧
      t = { s with
        engine := { busy := false, cmd := 0x0001#16, step := 4, shift := 0x00#8, ackBit := 1#1 }
        status := { s.status with illegal := false }
        ld := { sdaDir := .output, sdaLvl := 1#1, sclDir := .output, sclLvl := 1#1 }
        trace := (observe configureLineOps []).reverse ++ s.trace }

/-- START (R121) completes from every ready state. -/
def Obligations.StartCompletes : Prop :=
  ∀ s : State, s.ready →
    exec .start s = .next (s.accept 0x0002#16) ∧
    ∃ t, runFor 7 (s.accept 0x0002#16) = .next t ∧
      t.issuedOps = s.issuedOps ++ startLineOps ∧
      t = { s with
        engine := { busy := false, cmd := 0x0002#16, step := 7, shift := 0x00#8, ackBit := 1#1 }
        status := { s.status with illegal := false }
        ld := { sdaDir := .output, sdaLvl := 0#1, sclDir := .output, sclLvl := 1#1 }
        trace := (observe startLineOps []).reverse ++ s.trace }

/-- STOP (R122) completes from every ready state. -/
def Obligations.StopCompletes : Prop :=
  ∀ s : State, s.ready →
    exec .stop s = .next (s.accept 0x0003#16) ∧
    ∃ t, runFor 7 (s.accept 0x0003#16) = .next t ∧
      t.issuedOps = s.issuedOps ++ stopLineOps ∧
      t = { s with
        engine := { busy := false, cmd := 0x0003#16, step := 7, shift := 0x00#8, ackBit := 1#1 }
        status := { s.status with illegal := false }
        ld := { sdaDir := .output, sdaLvl := 1#1, sclDir := .output, sclLvl := 1#1 }
        trace := (observe stopLineOps []).reverse ++ s.trace }

/-- WRITE_BYTE (R132) completes from every ready state, for every byte: STATUS.ACK is the one bit sampled. -/
def Obligations.WriteByteCompletes : Prop :=
  ∀ (s : State) (b : Byte), s.ready →
    exec (.writeByte b) s = .next (s.accept (b ++ 0x04#8)) ∧
    ∃ t, runFor 57 (s.accept (b ++ 0x04#8)) = .next t ∧
      t.issuedOps = s.issuedOps ++ writeByteLineOps b ∧
      t = { s.afterSamples 1 with
        engine := { busy := false, cmd := b ++ 0x04#8, step := 57, shift := 0x00#8, ackBit := s.sampleAt 0 }
        status := { ack := s.sampleAt 0, illegal := false, rxData := s.status.rxData }
        ld := { sdaDir := .input, sdaLvl := bitAt b 0, sclDir := s.ld.sclDir, sclLvl := 0#1 }
        lopSda := s.sampleAt 0
        trace := (observe (writeByteLineOps b) [s.sampleAt 0]).reverse ++ s.trace }

/-- READ_BYTE (R135, R137) completes from every ready state, for both acknowledges: STATUS.RXDATA is the eight bits sampled,
the first in bit 7. -/
def Obligations.ReadByteCompletes : Prop :=
  ∀ (s : State) (k : Bit), s.ready →
    exec (.readByte k) s = .next (s.accept (0x000#11 ++ k ++ 0x5#4)) ∧
    ∃ (t : State) (r : Byte), runFor 50 (s.accept (0x000#11 ++ k ++ 0x5#4)) = .next t ∧
      (∀ j, j < 8 → bitAt r (7 - j) = s.sampleAt j) ∧
      t.issuedOps = s.issuedOps ++ readByteLineOps k ∧
      t = { s.afterSamples 8 with
        engine := { busy := false, cmd := 0x000#11 ++ k ++ 0x5#4, step := 50, shift := r, ackBit := 1#1 }
        status := { ack := s.status.ack, illegal := false, rxData := r }
        ld := { sdaDir := .output, sdaLvl := k, sclDir := s.ld.sclDir, sclLvl := 0#1 }
        lopSda := s.sampleAt 7
        trace := (observe (readByteLineOps k) ((List.range 8).map s.sampleAt)).reverse ++ s.trace }

/-- WRITE_ADDRESS (R160) completes from every ready state, for every address: it sends {a, 0}. -/
def Obligations.WriteAddressCompletes : Prop :=
  ∀ (s : State) (a : Address), s.ready →
    exec (.writeAddress a) s = .next (s.accept (0#1 ++ a ++ 0x06#8)) ∧
    ∃ t, runFor 57 (s.accept (0#1 ++ a ++ 0x06#8)) = .next t ∧
      t.issuedOps = s.issuedOps ++ writeByteLineOps (a ++ 0#1) ∧
      t = { s.afterSamples 1 with
        engine := { busy := false, cmd := 0#1 ++ a ++ 0x06#8, step := 57, shift := 0x00#8, ackBit := s.sampleAt 0 }
        status := { ack := s.sampleAt 0, illegal := false, rxData := s.status.rxData }
        ld := { sdaDir := .input, sdaLvl := 0#1, sclDir := s.ld.sclDir, sclLvl := 0#1 }
        lopSda := s.sampleAt 0
        trace := (observe (writeByteLineOps (a ++ 0#1)) [s.sampleAt 0]).reverse ++ s.trace }

/-- READ_ADDRESS (R161) completes from every ready state, for every address: it sends {a, 1}. -/
def Obligations.ReadAddressCompletes : Prop :=
  ∀ (s : State) (a : Address), s.ready →
    exec (.readAddress a) s = .next (s.accept (0#1 ++ a ++ 0x07#8)) ∧
    ∃ t, runFor 57 (s.accept (0#1 ++ a ++ 0x07#8)) = .next t ∧
      t.issuedOps = s.issuedOps ++ writeByteLineOps (a ++ 1#1) ∧
      t = { s.afterSamples 1 with
        engine := { busy := false, cmd := 0#1 ++ a ++ 0x07#8, step := 57, shift := 0x00#8, ackBit := s.sampleAt 0 }
        status := { ack := s.sampleAt 0, illegal := false, rxData := s.status.rxData }
        ld := { sdaDir := .input, sdaLvl := 1#1, sclDir := s.ld.sclDir, sclLvl := 0#1 }
        lopSda := s.sampleAt 0
        trace := (observe (writeByteLineOps (a ++ 1#1)) [s.sampleAt 0]).reverse ++ s.trace }

/-- BUS_RESET (R151) completes from every ready state, whatever the peers do: nine pulses, START, STOP, end idle. -/
def Obligations.BusResetCompletes : Prop :=
  ∀ s : State, s.ready →
    exec .busReset s = .next (s.accept 0x0008#16) ∧
    ∃ t, runFor 54 (s.accept 0x0008#16) = .next t ∧
      t.issuedOps = s.issuedOps ++ busResetLineOps ∧
      t = { s with
        engine := { busy := false, cmd := 0x0008#16, step := 54, shift := 0x00#8, ackBit := 1#1 }
        status := { s.status with illegal := false }
        ld := { sdaDir := .output, sdaLvl := 1#1, sclDir := .output, sclLvl := 1#1 }
        trace := (observe busResetLineOps []).reverse ++ s.trace }

/-! ### Line operations -/

/-- HOLD completes and changes nothing (R52). -/
def Obligations.HoldCompletes : Prop := ∀ (m : BitVec 2) (s : State), exec (.hold m) s = .next s

/-- The direction ops change their own latch only (R53, R54, R37), and the engine issues DIR_SCL only with OUT. -/
def Obligations.DirectionOpsComplete : Prop :=
  (∀ (d : Dir) (s : State), exec (.dirSda d) s = .next { s with ld := { s.ld with sdaDir := d } }) ∧
  (∀ (d : Dir) (s : State), exec (.dirScl d) s = .next { s with ld := { s.ld with sclDir := d } }) ∧
  (∀ (s : State) (d : Dir), s.lineOp? = some (.dirScl d) → d = .output)

/-- The level ops change their own latch only (R55, R56, R37); SDA_LVL while SDA is an output. -/
def Obligations.LevelOpsComplete : Prop :=
  (∀ (v : Bit) (s : State), exec (.sclLvl v) s = .next { s with ld := { s.ld with sclLvl := v } }) ∧
  (∀ (v : Bit) (s : State), s.ld.sdaDir = .output →
    exec (.sdaLvl v) s = .next { s with ld := { s.ld with sdaLvl := v } })

/-- GET_SDA while SDA is an input returns the peers' next bit on lop_sda, a free draw where none is listed, and changes no
latch (R57, R38). -/
def Obligations.GetSdaCompletes : Prop :=
  (∀ (s : State) (b : Bit) (bs : List Bit), s.ld.sdaDir = .input → s.samples = b :: bs →
    exec .getSda s = .next { s with lopSda := b, samples := bs }) ∧
  (∀ s : State, s.ld.sdaDir = .input → s.samples = [] →
    exec .getSda s = .next { s with lopSda := Config.sampledBit s.draws, draws := s.draws + 1 })

/-- The two line ops 93_implementation_defined.md refuses: GET_SDA while SDA is an output (I8), SDA_LVL while SDA is an
input (I9). -/
def Obligations.RefusedLineOps : Prop :=
  (∀ s : State, s.ld.sdaDir = .output → exec .getSda s = .refused .sampleWhileOutput) ∧
  (∀ (v : Bit) (s : State), s.ld.sdaDir = .input → exec (.sdaLvl v) s = .refused .driveWhileInput)

/-- Every word the engine puts on the line-op port is in the table of R78: a line op, well formed, and no DIR_SCL(IN). -/
def Obligations.EngineEmitsOnlyTableWords : Prop :=
  ∀ (s : State) (i : Instr), s.lineOp? = some i →
    i.isCommand = false ∧ i.wellFormed = true ∧ i ≠ .dirScl .input ∧
    ∃ w, encode i = .lineOp w ∧ s.lopWord? = some w ∧ decodeLineOp w = .ok i

/-! ### The lists -/

/-- The positions R132 gives in WRITE_SEQ(b) and R135 in READ_SEQ(k). -/
def Obligations.ByteSequencePositions : Prop :=
  (∀ b : Byte, (opsOf (.writeByte b)).length = 57 ∧
    (opsOf (.writeByte b))[0]? = some (.dirSda .output) ∧
    (∀ i, i < 8 → (((opsOf (.writeByte b)).drop (1 + 6 * (7 - i))).take 6) =
      [.scl 0#1, .hold .wbLow, .sda (bitAt b i), .hold .wbData, .scl 1#1, .hold .wbHigh]) ∧
    (opsOf (.writeByte b)).drop 49 =
      [.scl 0#1, .dirSda .input, .scl 0#1, .hold .raLow, .scl 1#1, .hold .raHigh, .sampleAck, .scl 0#1]) ∧
  (∀ k : Bit, (opsOf (.readByte k)).length = 50 ∧
    (opsOf (.readByte k))[0]? = some (.dirSda .input) ∧
    (∀ j, j < 8 → (((opsOf (.readByte k)).drop (1 + 5 * j)).take 5) =
      [.scl 0#1, .hold .rbLow, .scl 1#1, .hold .rbHigh, .sampleData]) ∧
    (opsOf (.readByte k)).drop 41 =
      [.scl 0#1, .dirSda .output, .scl 0#1, .hold .saLow, .sda k, .hold .saData, .scl 1#1, .hold .saHigh, .scl 0#1])

/-- The pulse count of BUS_RESET (R153): nine SCL(0), SCL(1) pairs at positions 4 to 39, then START and STOP; twelve SCL(1)
in all, one at position 3, nine in the pulses, one in START, one in STOP. -/
def Obligations.RecoveryPulseCount : Prop :=
  (∀ p, p < 9 → (((opsOf .busReset).drop (4 + 4 * p)).take 4) = [.scl 0#1, .hold .brLow, .scl 1#1, .hold .brHigh]) ∧
  (opsOf .busReset).drop 40 = opsOf .start ++ opsOf .stop ∧
  (opsOf .busReset).count (.scl 1#1) = 12 ∧ (opsOf .busReset)[3]? = some (.scl 1#1) ∧
  (((opsOf .busReset).drop 4).take 36).count (.scl 1#1) = 9 ∧
  (opsOf .start).count (.scl 1#1) = 1 ∧ (opsOf .stop).count (.scl 1#1) = 1

/-- The counts of R234: line ops, SCL(1) ops and GET_SDA of each command. -/
def Obligations.LineOpCounts : Prop :=
  ∀ (b : Byte) (k : Bit) (a : Address),
    ((opsOf .configure).length, (opsOf .configure).count (.scl 1#1), (lineOpsOf .configure).count .getSda) = (4, 1, 0) ∧
    ((opsOf .start).length, (opsOf .start).count (.scl 1#1), (lineOpsOf .start).count .getSda) = (7, 1, 0) ∧
    ((opsOf .stop).length, (opsOf .stop).count (.scl 1#1), (lineOpsOf .stop).count .getSda) = (7, 1, 0) ∧
    ((opsOf (.writeByte b)).length, (opsOf (.writeByte b)).count (.scl 1#1),
      (lineOpsOf (.writeByte b)).count .getSda) = (57, 9, 1) ∧
    ((opsOf (.readByte k)).length, (opsOf (.readByte k)).count (.scl 1#1),
      (lineOpsOf (.readByte k)).count .getSda) = (50, 9, 8) ∧
    ((opsOf (.writeAddress a)).length, (opsOf (.writeAddress a)).count (.scl 1#1),
      (lineOpsOf (.writeAddress a)).count .getSda) = (57, 9, 1) ∧
    ((opsOf (.readAddress a)).length, (opsOf (.readAddress a)).count (.scl 1#1),
      (lineOpsOf (.readAddress a)).count .getSda) = (57, 9, 1) ∧
    ((opsOf .busReset).length, (opsOf .busReset).count (.scl 1#1), (lineOpsOf .busReset).count .getSda) = (54, 12, 0)

/-- The least time of each of the eight commands, from the hold sites R234 counts; an address command's is WRITE_BYTE's. -/
def Obligations.HoldTimes : Prop :=
  ∀ (b : Byte) (k : Bit) (a : Address),
    let h := fun site => (holdMult site).toNat * Config.holdUnit
    let write := 8 * h .wbLow + 8 * h .wbData + 8 * h .wbHigh + h .raLow + h .raHigh
    minDuration (opsOf .configure) = 0 ∧
    minDuration (opsOf .start) = h .staSu + h .staHd ∧
    minDuration (opsOf .stop) = h .stoSu + h .stoBuf ∧
    minDuration (opsOf (.writeByte b)) = write ∧
    minDuration (opsOf (.writeAddress a)) = write ∧
    minDuration (opsOf (.readAddress a)) = write ∧
    minDuration (opsOf (.readByte k)) = 8 * h .rbLow + 8 * h .rbHigh + h .saLow + h .saData + h .saHigh ∧
    minDuration (opsOf .busReset) = 9 * h .brLow + 9 * h .brHigh + h .staSu + h .staHd + h .stoSu + h .stoBuf

/-- An address command is the byte command it delegates to (R162): the same line ops, the same end of the Line Driver, and
the same status field with the same value. -/
def Obligations.AddressCommandIsByteCommand : Prop :=
  ∀ (s : State) (a : Address), s.ready →
    (∃ t u v, exec (.writeAddress a) s = .next t ∧ exec (.writeByte (a ++ 0#1)) s = .next u ∧
      runFor 57 t = .next v ∧ runFor 57 u = .next { v with engine := { v.engine with cmd := (a ++ 0#1) ++ 0x04#8 } }) ∧
    (∃ t u v, exec (.readAddress a) s = .next t ∧ exec (.writeByte (a ++ 1#1)) s = .next u ∧
      runFor 57 t = .next v ∧ runFor 57 u = .next { v with engine := { v.engine with cmd := (a ++ 1#1) ++ 0x04#8 } })

/-! ### Whole-machine rules -/

/-- The sequencer's invariant holds at reset. -/
def Obligations.InvAtReset : Prop := State.reset.Inv

/-- Every step keeps the sequencer's invariant. -/
def Obligations.InvKeptByEveryStep : Prop := ∀ s t : State, s.Inv → step s = .next t → t.Inv

/-- Under the invariant the machine never stops: no fault and no refusal (R200, R205). -/
def Obligations.InvNeverStops : Prop := ∀ s : State, s.Inv → ∃ t, step s = .next t

/-- Every accepted command ends: BUSY is 1 for exactly as many micro-steps as its list has line ops, and then 0
(R21, R102, R103, R231). -/
def Obligations.CommandEndsAfterItsList : Prop :=
  ∀ (i : Instr) (s : State), i.isCommand = true → s.ready →
    ∃ a t, exec i s = .next a ∧ runFor (opsOf i).length a = .next t ∧ t.engine.busy = false ∧
      ∀ n, n < (opsOf i).length → ∃ u, runFor n a = .next u ∧ u.engine.busy = true ∧ u.engine.step = n

/-- A command issues the line ops of its list, in order, each exactly once, one a step (R59, R103). -/
def Obligations.CommandIssuesExactlyItsList : Prop :=
  ∀ (i : Instr) (s : State) (n : Nat), i.isCommand = true → s.ready → n ≤ (opsOf i).length →
    ∃ a t, exec i s = .next a ∧ runFor n a = .next t ∧ t.issuedOps = s.issuedOps ++ (lineOpsOf i).take n

/-- Every run of a host program ends (R236), from any state of the invariant and with nothing but the host's words from
outside: the engine cannot hang by itself (R231). -/
def Obligations.EveryHostProgramEnds : Prop :=
  ∀ s : State, s.Inv → s.events = [] → ∃ n t, runFor n s = .next t ∧ t.runEnded

/-- The engine never branches on what it reads (R102): two states that differ only in what came from samples step alike,
to states that differ only so. -/
def Obligations.SamplesNeverChangeTheSequence : Prop :=
  ∀ s s' : State, s.withoutSamples = s'.withoutSamples →
    match step s, step s' with
    | .next t, .next t' => t.withoutSamples = t'.withoutSamples
    | .fault f, .fault f' => f = f'
    | .refused r, .refused r' => r = r'
    | .next _, .fault _ | .next _, .refused _ | .fault _, .next _ | .fault _, .refused _
    | .refused _, .next _ | .refused _, .fault _ => False

/-- Nothing is performed between commands (R60): with BUSY = 0 and the Line Driver exclusive, a step issues no line op and
leaves the latches, the samples and lop_sda as they were. That lop_sda is held where no GET_SDA completes is the model's
choice (log 3). -/
def Obligations.IdleEngineIssuesNothing : Prop :=
  ∀ s t : State, s.engine.busy = false → s.exclusive → step s = .next t →
    t.trace = s.trace ∧ t.ld = s.ld ∧ t.lopSda = s.lopSda ∧ t.samples = s.samples ∧ t.draws = s.draws

/-- STATUS.ACK is written, with E.ACKBIT, when a WRITE_BYTE, WRITE_ADDRESS or READ_ADDRESS completes, and by nothing else
but block reset (R27, R220). -/
def Obligations.AckWrittenOnlyByWriteCommands : Prop :=
  ∀ s t : State, step s = .next t → t.status.ack ≠ s.status.ack →
    (∃ done es, s.events = .blockReset done :: es ∧ t.status.ack = 1#1) ∨
    (s.engine.busy = true ∧ t.engine.busy = false ∧ t.status.ack = t.engine.ackBit ∧
      ((∃ b, decodeCommand s.engine.cmd = .ok (.writeByte b)) ∨ (∃ a, decodeCommand s.engine.cmd = .ok (.writeAddress a)) ∨
        (∃ a, decodeCommand s.engine.cmd = .ok (.readAddress a))))

/-- STATUS.RXDATA is written, with E.SHIFT, when a READ_BYTE completes, and by nothing else but block reset (R28, R220). -/
def Obligations.RxDataWrittenOnlyByReadByte : Prop :=
  ∀ s t : State, step s = .next t → t.status.rxData ≠ s.status.rxData →
    (∃ done es, s.events = .blockReset done :: es ∧ t.status.rxData = 0x00#8) ∨
    (s.engine.busy = true ∧ t.engine.busy = false ∧ t.status.rxData = t.engine.shift ∧
      ∃ k, decodeCommand s.engine.cmd = .ok (.readByte k))

/-- STATUS.ILLEGAL describes the most recent command word taken (R29): every step that takes a word leaves it saying whether
that word was illegal, and it changes only in such a step, or at block reset. -/
def Obligations.IllegalFollowsLastWordTaken : Prop :=
  ∀ s t : State, step s = .next t →
    (t.offers ≠ s.offers → s.engine.busy = false ∧ ∃ c cs, s.offers = c :: cs ∧ t.offers = cs ∧
      (t.status.illegal = true ↔ ∃ e, decodeCommand c = .error e)) ∧
    (t.status.illegal ≠ s.status.illegal →
      (∃ done es, s.events = .blockReset done :: es ∧ t.status.illegal = false) ∨
      (s.engine.busy = false ∧ ∃ c cs, s.offers = c :: cs ∧ t.offers = cs ∧
        (t.status.illegal = true ↔ ∃ e, decodeCommand c = .error e)))

/-- E.STEP increases by exactly 1 after each line op and never decreases while the command runs (R23). -/
def Obligations.StepCounterMovesByOne : Prop :=
  ∀ s t : State, s.engine.busy = true → s.events = [] → step s = .next t →
    t.engine.step = s.engine.step + 1 ∧ t.engine.cmd = s.engine.cmd ∧
    (t.engine.busy = false ↔ t.engine.step = (ops s.engine.cmd).length)

/-- The engine only ever writes OUT to SCL's direction (R34). -/
def Obligations.SclDirectionOnlySetToOutput : Prop :=
  ∀ s t : State, s.exclusive → step s = .next t → t.ld.sclDir = s.ld.sclDir ∨ t.ld.sclDir = .output

/-- In a byte command every SDA op at position 1 or later is issued while the SCL latch is 0 (R140). -/
def Obligations.SdaMovesOnlyWhileSclLow : Prop :=
  ∀ (s : State) (i : Instr) (n : Nat), s.ready →
    ((∃ b, i = .writeByte b) ∨ (∃ k, i = .readByte k) ∨ (∃ a, i = .writeAddress a) ∨ (∃ a, i = .readAddress a)) →
    1 ≤ n → ((∃ v, (opsOf i)[n]? = some (.sda v)) ∨ (∃ d, (opsOf i)[n]? = some (.dirSda d))) →
    ∃ a t, exec i s = .next a ∧ runFor n a = .next t ∧ t.template? = (opsOf i)[n]? ∧ t.ld.sclLvl = 0#1

/-- In READ_BYTE SDA holds the acknowledge from the SDA op at position 45 through the acknowledge clock (R138). -/
def Obligations.AcknowledgeHeldThroughItsClock : Prop :=
  ∀ (s : State) (k : Bit) (n : Nat), s.ready → 46 ≤ n → n ≤ 50 →
    ∃ a t, exec (.readByte k) s = .next a ∧ runFor n a = .next t ∧ t.ld.sdaDir = .output ∧ t.ld.sdaLvl = k ∧
      (n = 48 ∨ n = 49 → t.ld.sclLvl = 1#1)

/-! ### Bus conditions -/

/-- The table of R125: the START and STOP conditions of CONFIGURE, START and STOP from the named states, with every peer
releasing SDA. -/
def Obligations.StartStopConditions : Prop :=
  ∀ (s : State) (b0 k : Bit), s.ready →
    (s.ld = .idle →
      busConditions (fun _ => 1#1) 4 0 (s.accept 0x0001#16) = [] ∧
      busConditions (fun _ => 1#1) 7 0 (s.accept 0x0002#16) = [(5, .start)] ∧
      busConditions (fun _ => 1#1) 7 0 (s.accept 0x0003#16) = [(2, .start), (5, .stop)]) ∧
    (s.ld = .started →
      busConditions (fun _ => 1#1) 4 0 (s.accept 0x0001#16) = [(2, .stop)] ∧
      busConditions (fun _ => 1#1) 7 0 (s.accept 0x0002#16) = [(2, .stop), (5, .start)] ∧
      busConditions (fun _ => 1#1) 7 0 (s.accept 0x0003#16) = [(5, .stop)]) ∧
    (s.ld = .afterWrite b0 ∨ s.ld = .afterRead k →
      busConditions (fun _ => 1#1) 4 0 (s.accept 0x0001#16) = [] ∧
      busConditions (fun _ => 1#1) 7 0 (s.accept 0x0002#16) = [(5, .start)] ∧
      busConditions (fun _ => 1#1) 7 0 (s.accept 0x0003#16) = [(5, .stop)])

/-- A byte command makes no START or STOP condition from a named state, but for READ_BYTE directly after START, which makes
a STOP condition at position 0 (R140, 95_test_vectors.md V11 and V18). An address command is a WRITE_SEQ too. Every peer
releases SDA throughout, so each condition is the master's. -/
def Obligations.ByteCommandsMakeNoCondition : Prop :=
  ∀ (s : State) (b : Byte) (a : Address) (b0 k k' : Bit), s.ready →
    (s.ld = .idle ∨ s.ld = .started ∨ s.ld = .afterWrite b0 ∨ s.ld = .afterRead k →
      busConditions (fun _ => 1#1) 57 0 (s.accept (b ++ 0x04#8)) = [] ∧
      busConditions (fun _ => 1#1) 57 0 (s.accept (0#1 ++ a ++ 0x06#8)) = [] ∧
      busConditions (fun _ => 1#1) 57 0 (s.accept (0#1 ++ a ++ 0x07#8)) = []) ∧
    (s.ld = .idle ∨ s.ld = .afterWrite b0 ∨ s.ld = .afterRead k →
      busConditions (fun _ => 1#1) 50 0 (s.accept (0x000#11 ++ k' ++ 0x5#4)) = []) ∧
    (s.ld = .started → busConditions (fun _ => 1#1) 50 0 (s.accept (0x000#11 ++ k' ++ 0x5#4)) = [(0, .stop)])

/-- What the bus sees of BUS_RESET (R154), for peers that put any level on SDA before each line op and any after it:
- where every peer has released SDA by position 45, a START at 45 and a STOP at 52, nothing else from 45 on, and an idle bus;
- a peer's release of SDA in a pulse's HOLD(BR_HIGH), where SCL is high, is a STOP condition there;
- where a peer holds SDA low from position 45 on, no condition from 45 on, SDA low, and idle latches all the same;
- the whole list of conditions where the peers release SDA throughout (V20 to V22), where one holds it low throughout (V23),
  and where one releases it in the HOLD(BR_HIGH) of a pulse (V24: pulse 3 is `q = 2`).
The peers' levels are an argument, not state (log 18). -/
def Obligations.BusResetConditions : Prop :=
  ∀ (s : State) (peer : Nat → Bit), s.ready →
    ∃ t, runFor 54 (s.accept 0x0008#16) = .next t ∧ t.ld = .idle ∧
      ((∀ n, 45 ≤ n → n ≤ 54 → peer n = 1#1) →
        (busConditions peer 54 0 (s.accept 0x0008#16)).filter (fun x => 45 ≤ x.1) = [(45, .start), (52, .stop)] ∧
        t.ld.busSda (peer 54) = 1#1 ∧ t.ld.busScl = 1#1) ∧
      (∀ q, q < 9 → peer (7 + 4 * q) = 0#1 → peer (8 + 4 * q) = 1#1 →
        (7 + 4 * q, .stop) ∈ busConditions peer 54 0 (s.accept 0x0008#16)) ∧
      ((∀ n, 45 ≤ n → n ≤ 54 → peer n = 0#1) →
        (busConditions peer 54 0 (s.accept 0x0008#16)).filter (fun x => 45 ≤ x.1) = [] ∧
        ∀ n u, 45 ≤ n → n ≤ 54 → runFor n (s.accept 0x0008#16) = .next u → u.ld.busSda (peer n) = 0#1) ∧
      ((∀ n, peer n = 1#1) →
        (∀ b0 k, s.ld = .idle ∨ s.ld = .afterWrite b0 ∨ s.ld = .afterRead k →
          busConditions peer 54 0 (s.accept 0x0008#16) = [(45, .start), (52, .stop)]) ∧
        (s.ld = .started →
          busConditions peer 54 0 (s.accept 0x0008#16) = [(2, .stop), (45, .start), (52, .stop)])) ∧
      ((∀ n, peer n = 0#1) → busConditions peer 54 0 (s.accept 0x0008#16) = []) ∧
      (∀ q, q < 9 → (∀ n, peer n = if n ≤ 7 + 4 * q then 0#1 else 1#1) →
        busConditions peer 54 0 (s.accept 0x0008#16) = [(7 + 4 * q, .stop), (45, .start), (52, .stop)])

/-- CONFIGURE is idempotent (R124): a second CONFIGURE ends in the Line Driver state the first one left, and none of its
line ops changes a latch or, while the peers hold their level, makes a condition on the bus. -/
def Obligations.ConfigureIsIdempotent : Prop :=
  ∀ s : State, s.ready →
    ∃ t u v, runFor 4 (s.accept 0x0001#16) = .next t ∧ exec .configure t = .next u ∧ runFor 4 u = .next v ∧
      v.ld = t.ld ∧ (∀ peer : Bit, busConditions (fun _ => peer) 4 0 u = []) ∧
      ∀ n, n ≤ 4 → ∃ w, runFor n u = .next w ∧ w.ld = t.ld

/-- START followed by STOP leaves both lines outputs and both latches 1, whatever the state before START; so does STOP
alone (R123). -/
def Obligations.StartThenStopLeavesIdle : Prop :=
  ∀ s : State, s.ready →
    (∃ t u v, exec .start s = .next t ∧ runFor 7 t = .next u ∧ u.engine.busy = false ∧
      runFor 7 (u.accept 0x0003#16) = .next v ∧ exec .stop u = .next (u.accept 0x0003#16) ∧ v.ld = .idle) ∧
    (∃ t v, exec .stop s = .next t ∧ runFor 7 t = .next v ∧ v.ld = .idle)

/-! ### Reset, status and the Line Driver's time -/

/-- Block reset sets every engine and status field to its reset value, issues no line op, takes no command word, and has
priority over everything else (R220, R204). That a line op in flight which takes effect in this step is not added to the
observation is the model's choice (log 11). -/
def Obligations.BlockResetSetsEveryField : Prop :=
  ∀ (s : State) (done : Bool) (es : List Event), s.events = .blockReset done :: es →
    ∃ t, step s = .next t ∧
      t.engine = { busy := false, cmd := 0x0000#16, step := 0, shift := 0x00#8, ackBit := 1#1 } ∧
      t.status = { ack := 1#1, illegal := false, rxData := 0x00#8 } ∧
      t.offers = s.offers ∧ t.trace = s.trace ∧ t.events = es ∧ t.cmdReady = true

/-- The Line Driver at block reset (R221, R222): untouched, but for the line op in flight, which took effect or did not; an
idle engine has none in flight. -/
def Obligations.BlockResetAdmitsBothOutcomes : Prop :=
  ∀ (s : State) (es : List Event),
    (s.events = .blockReset false :: es → ∃ t, step s = .next t ∧ t.ld = s.ld) ∧
    (s.events = .blockReset true :: es →
      (s.engine.busy = false → ∃ t, step s = .next t ∧ t.ld = s.ld) ∧
      ∀ i u, s.lineOp? = some i → exec i { s with events := es } = .next u → ∃ t, step s = .next t ∧ t.ld = u.ld)

/-- What power-up leaves in the engine: the reset values of R220, and STATUS reads {0, 1, 0, 0x00}. The Line Driver latches
are any value in the spec (R222), and this statement says nothing of them. -/
def Obligations.ResetState : Prop :=
  State.reset.engine = { busy := false, cmd := 0x0000#16, step := 0, shift := 0x00#8, ackBit := 1#1 } ∧
  State.reset.status = { ack := 1#1, illegal := false, rxData := 0x00#8 } ∧
  State.reset.statusWord = 0x0002#16 ∧ State.reset.cmdReady = true

/-- The layout of the status word (R26, R30, R31): each field in its bits, and bits 7:3 read 0 in every state. -/
def Obligations.StatusWordLayout : Prop :=
  ∀ s : State,
    s.statusWord.getLsbD 0 = s.engine.busy ∧ s.statusWord.extractLsb' 1 1 = s.status.ack ∧
    s.statusWord.getLsbD 2 = s.status.illegal ∧ s.statusWord.extractLsb' 3 5 = 0#5 ∧
    s.statusWord.extractLsb' 8 8 = s.status.rxData

/-- A Line Driver that does not complete leaves the engine as it is, with BUSY = 1, for as long as it does not (R78, R231,
I7), and only block reset ends it. -/
def Obligations.StalledLineDriverHoldsEngine : Prop :=
  ∀ (n : Nat) (s : State) (es : List Event), s.engine.busy = true → s.events = List.replicate n .stall ++ es →
    runFor n s = .next { s with events := es }

/-! ### The bus view -/

/-- The START and STOP conditions are those of the levels on the bus, whoever moves them (R13, R39), in every step of the
machine: bus_scl is 1 before and after it and bus_sda falls, or rises. So a step that moves no latch, of whatever kind, in
which a peer releases SDA with SCL high and the master not driving SDA low is a STOP condition, and one in which a peer
pulls it low is a START condition; and a bus on which a peer holds SDA low sees none (V23, V29). The peers' levels are an
argument, not state (log 18). -/
def Obligations.BusConditionsFollowTheBus : Prop :=
  (∀ (s t : State) (peer peer' : Bit), step s = .next t →
    (busCondition s.ld peer t.ld peer' = some .start ↔
      s.ld.busScl = 1#1 ∧ t.ld.busScl = 1#1 ∧ s.ld.busSda peer = 1#1 ∧ t.ld.busSda peer' = 0#1) ∧
    (busCondition s.ld peer t.ld peer' = some .stop ↔
      s.ld.busScl = 1#1 ∧ t.ld.busScl = 1#1 ∧ s.ld.busSda peer = 0#1 ∧ t.ld.busSda peer' = 1#1) ∧
    (t.ld = s.ld → s.ld.busScl = 1#1 → s.ld.masterSda = 1#1 →
      busCondition s.ld 0#1 t.ld 1#1 = some .stop ∧ busCondition s.ld 1#1 t.ld 0#1 = some .start)) ∧
  (∀ (peer : Nat → Bit) (n p : Nat) (s : State), (∀ m, p ≤ m → m ≤ p + n → peer m = 0#1) →
    busConditions peer n p s = [])
end

