-- ==== Sys2Proof/Laws/Decode.lean ====
section
/-! SUPPORT. What the decoder can answer: a word of the command port is a command, a word of the line-op port a line op
(spec/30_encoding.md R73, R78). -/

namespace Sys2Proof

/-- A command with no operand answers the command it was given (R73). -/
theorem decodePlain_ok {c : Word} {i j : Instr} (h : decodePlain c i = .ok j) :
    ackSelField c = 0#1 ∧ dataField c = 0#8 ∧ j = i := by
  unfold decodePlain at h
  split at h
  · cases h
  · split at h <;> cases h
    exact ⟨by simp_all, by simp_all, rfl⟩

/-- A command with a byte operand answers it on DATA (R73). -/
theorem decodeByteOperand_ok {c : Word} {f : Byte → Instr} {j : Instr} (h : decodeByteOperand c f = .ok j) :
    ackSelField c = 0#1 ∧ j = f (dataField c) := by
  unfold decodeByteOperand at h
  split at h <;> cases h
  exact ⟨by simp_all, rfl⟩

/-- A command with an acknowledge operand answers it on ACKSEL (R73). -/
theorem decodeAckOperand_ok {c : Word} {f : Bit → Instr} {j : Instr} (h : decodeAckOperand c f = .ok j) :
    dataField c = 0#8 ∧ j = f (ackSelField c) := by
  unfold decodeAckOperand at h
  split at h <;> cases h
  exact ⟨by simp_all, rfl⟩

/-- A command with an address operand answers it on DATA[6:0] (R73). -/
theorem decodeAddressOperand_ok {c : Word} {f : Address → Instr} {j : Instr} (h : decodeAddressOperand c f = .ok j) :
    ackSelField c = 0#1 ∧ dataTopField c = 0#1 ∧ j = f (addressField c) := by
  unfold decodeAddressOperand at h
  split at h
  · cases h
  · split at h <;> cases h
    exact ⟨by simp_all, by simp_all, rfl⟩

/-- What a legal command word can be, with the values of its other fields (R73). -/
theorem decodeCommand_ok {c : Word} {i : Instr} (h : decodeCommand c = .ok i) :
    rsvField c = 0#3 ∧
      ((opField c = 1#4 ∧ ackSelField c = 0#1 ∧ dataField c = 0#8 ∧ i = .configure) ∨
        (opField c = 2#4 ∧ ackSelField c = 0#1 ∧ dataField c = 0#8 ∧ i = .start) ∨
        (opField c = 3#4 ∧ ackSelField c = 0#1 ∧ dataField c = 0#8 ∧ i = .stop) ∨
        (opField c = 4#4 ∧ ackSelField c = 0#1 ∧ i = .writeByte (dataField c)) ∨
        (opField c = 5#4 ∧ dataField c = 0#8 ∧ i = .readByte (ackSelField c)) ∨
        (opField c = 6#4 ∧ ackSelField c = 0#1 ∧ dataTopField c = 0#1 ∧ i = .writeAddress (addressField c)) ∨
        (opField c = 7#4 ∧ ackSelField c = 0#1 ∧ dataTopField c = 0#1 ∧ i = .readAddress (addressField c)) ∨
        (opField c = 8#4 ∧ ackSelField c = 0#1 ∧ dataField c = 0#8 ∧ i = .busReset)) := by
  unfold decodeCommand at h
  split at h
  · cases h
  rename_i hr
  refine ⟨by simpa using hr, ?_⟩
  split at h
  · rename_i ho
    obtain ⟨ha, hd, rfl⟩ := decodePlain_ok h
    exact .inl ⟨ho, ha, hd, rfl⟩
  split at h
  · rename_i ho
    obtain ⟨ha, hd, rfl⟩ := decodePlain_ok h
    exact .inr (.inl ⟨ho, ha, hd, rfl⟩)
  split at h
  · rename_i ho
    obtain ⟨ha, hd, rfl⟩ := decodePlain_ok h
    exact .inr (.inr (.inl ⟨ho, ha, hd, rfl⟩))
  split at h
  · rename_i ho
    obtain ⟨ha, rfl⟩ := decodeByteOperand_ok h
    exact .inr (.inr (.inr (.inl ⟨ho, ha, rfl⟩)))
  split at h
  · rename_i ho
    obtain ⟨hd, rfl⟩ := decodeAckOperand_ok h
    exact .inr (.inr (.inr (.inr (.inl ⟨ho, hd, rfl⟩))))
  split at h
  · rename_i ho
    obtain ⟨ha, hd, rfl⟩ := decodeAddressOperand_ok h
    exact .inr (.inr (.inr (.inr (.inr (.inl ⟨ho, ha, hd, rfl⟩)))))
  split at h
  · rename_i ho
    obtain ⟨ha, hd, rfl⟩ := decodeAddressOperand_ok h
    exact .inr (.inr (.inr (.inr (.inr (.inr (.inl ⟨ho, ha, hd, rfl⟩))))))
  split at h
  · rename_i ho
    obtain ⟨ha, hd, rfl⟩ := decodePlain_ok h
    exact .inr (.inr (.inr (.inr (.inr (.inr (.inr ⟨ho, ha, hd, rfl⟩))))))
  · cases h

/-- A legal command word is a command (R71). -/
theorem decodeCommand_isCommand {c : Word} {i : Instr} (h : decodeCommand c = .ok i) : i.isCommand = true := by
  obtain ⟨-, h⟩ := decodeCommand_ok h
  rcases h with ⟨-, -, -, rfl⟩ | ⟨-, -, -, rfl⟩ | ⟨-, -, -, rfl⟩ | ⟨-, -, rfl⟩ | ⟨-, -, rfl⟩ | ⟨-, -, -, rfl⟩ |
    ⟨-, -, -, rfl⟩ | ⟨-, -, -, rfl⟩ <;> rfl

/-- A line-op word with a one-bit argument answers it (R78). -/
theorem decodeBitArg_ok {w : LopWord} {f : Bit → Instr} {i : Instr} (h : decodeBitArg w f = .ok i) :
    argTop w = 0#1 ∧ i = f (argBit w) := by
  unfold decodeBitArg at h
  split at h <;> cases h
  exact ⟨by simp_all, rfl⟩

/-- A word of the line-op port that decodes is a line op (R51). -/
theorem decodeLineOp_isLineOp {w : LopWord} {i : Instr} (h : decodeLineOp w = .ok i) : i.isCommand = false := by
  unfold decodeLineOp at h
  split at h
  · cases h; rfl
  iterate 4
    split at h
    · obtain ⟨-, rfl⟩ := decodeBitArg_ok h; rfl
  split at h
  · split at h <;> cases h
    rfl
  · cases h

end Sys2Proof
end

