-- ==== Sys2Proof/Laws/State.lean ====
section
/-! SUPPORT. What every update of the state does to every field: one lemma per field per update, true by unfolding, in the
simp set, so that no later proof unfolds a record update. -/

namespace Sys2Proof.Machine

/-! ### State.setSdaDir -/

@[simp] theorem State.setSdaDir_engine (s : State) (d : Dir) : (s.setSdaDir d).engine = s.engine := rfl
@[simp] theorem State.setSdaDir_status (s : State) (d : Dir) : (s.setSdaDir d).status = s.status := rfl
@[simp] theorem State.setSdaDir_ld_sdaDir (s : State) (d : Dir) : (s.setSdaDir d).ld.sdaDir = d := rfl
@[simp] theorem State.setSdaDir_ld_sdaLvl (s : State) (d : Dir) : (s.setSdaDir d).ld.sdaLvl = s.ld.sdaLvl := rfl
@[simp] theorem State.setSdaDir_ld_sclDir (s : State) (d : Dir) : (s.setSdaDir d).ld.sclDir = s.ld.sclDir := rfl
@[simp] theorem State.setSdaDir_ld_sclLvl (s : State) (d : Dir) : (s.setSdaDir d).ld.sclLvl = s.ld.sclLvl := rfl
@[simp] theorem State.setSdaDir_lopSda (s : State) (d : Dir) : (s.setSdaDir d).lopSda = s.lopSda := rfl
@[simp] theorem State.setSdaDir_offers (s : State) (d : Dir) : (s.setSdaDir d).offers = s.offers := rfl
@[simp] theorem State.setSdaDir_events (s : State) (d : Dir) : (s.setSdaDir d).events = s.events := rfl
@[simp] theorem State.setSdaDir_samples (s : State) (d : Dir) : (s.setSdaDir d).samples = s.samples := rfl
@[simp] theorem State.setSdaDir_draws (s : State) (d : Dir) : (s.setSdaDir d).draws = s.draws := rfl
@[simp] theorem State.setSdaDir_trace (s : State) (d : Dir) : (s.setSdaDir d).trace = s.trace := rfl

/-! ### State.setSclDir -/

@[simp] theorem State.setSclDir_engine (s : State) (d : Dir) : (s.setSclDir d).engine = s.engine := rfl
@[simp] theorem State.setSclDir_status (s : State) (d : Dir) : (s.setSclDir d).status = s.status := rfl
@[simp] theorem State.setSclDir_ld_sdaDir (s : State) (d : Dir) : (s.setSclDir d).ld.sdaDir = s.ld.sdaDir := rfl
@[simp] theorem State.setSclDir_ld_sdaLvl (s : State) (d : Dir) : (s.setSclDir d).ld.sdaLvl = s.ld.sdaLvl := rfl
@[simp] theorem State.setSclDir_ld_sclDir (s : State) (d : Dir) : (s.setSclDir d).ld.sclDir = d := rfl
@[simp] theorem State.setSclDir_ld_sclLvl (s : State) (d : Dir) : (s.setSclDir d).ld.sclLvl = s.ld.sclLvl := rfl
@[simp] theorem State.setSclDir_lopSda (s : State) (d : Dir) : (s.setSclDir d).lopSda = s.lopSda := rfl
@[simp] theorem State.setSclDir_offers (s : State) (d : Dir) : (s.setSclDir d).offers = s.offers := rfl
@[simp] theorem State.setSclDir_events (s : State) (d : Dir) : (s.setSclDir d).events = s.events := rfl
@[simp] theorem State.setSclDir_samples (s : State) (d : Dir) : (s.setSclDir d).samples = s.samples := rfl
@[simp] theorem State.setSclDir_draws (s : State) (d : Dir) : (s.setSclDir d).draws = s.draws := rfl
@[simp] theorem State.setSclDir_trace (s : State) (d : Dir) : (s.setSclDir d).trace = s.trace := rfl

/-! ### State.setSclLvl -/

@[simp] theorem State.setSclLvl_engine (s : State) (v : Bit) : (s.setSclLvl v).engine = s.engine := rfl
@[simp] theorem State.setSclLvl_status (s : State) (v : Bit) : (s.setSclLvl v).status = s.status := rfl
@[simp] theorem State.setSclLvl_ld_sdaDir (s : State) (v : Bit) : (s.setSclLvl v).ld.sdaDir = s.ld.sdaDir := rfl
@[simp] theorem State.setSclLvl_ld_sdaLvl (s : State) (v : Bit) : (s.setSclLvl v).ld.sdaLvl = s.ld.sdaLvl := rfl
@[simp] theorem State.setSclLvl_ld_sclDir (s : State) (v : Bit) : (s.setSclLvl v).ld.sclDir = s.ld.sclDir := rfl
@[simp] theorem State.setSclLvl_ld_sclLvl (s : State) (v : Bit) : (s.setSclLvl v).ld.sclLvl = v := rfl
@[simp] theorem State.setSclLvl_lopSda (s : State) (v : Bit) : (s.setSclLvl v).lopSda = s.lopSda := rfl
@[simp] theorem State.setSclLvl_offers (s : State) (v : Bit) : (s.setSclLvl v).offers = s.offers := rfl
@[simp] theorem State.setSclLvl_events (s : State) (v : Bit) : (s.setSclLvl v).events = s.events := rfl
@[simp] theorem State.setSclLvl_samples (s : State) (v : Bit) : (s.setSclLvl v).samples = s.samples := rfl
@[simp] theorem State.setSclLvl_draws (s : State) (v : Bit) : (s.setSclLvl v).draws = s.draws := rfl
@[simp] theorem State.setSclLvl_trace (s : State) (v : Bit) : (s.setSclLvl v).trace = s.trace := rfl

/-! ### State.setSdaLvl -/

@[simp] theorem State.setSdaLvl_engine (s : State) (v : Bit) : (s.setSdaLvl v).engine = s.engine := rfl
@[simp] theorem State.setSdaLvl_status (s : State) (v : Bit) : (s.setSdaLvl v).status = s.status := rfl
@[simp] theorem State.setSdaLvl_ld_sdaDir (s : State) (v : Bit) : (s.setSdaLvl v).ld.sdaDir = s.ld.sdaDir := rfl
@[simp] theorem State.setSdaLvl_ld_sdaLvl (s : State) (v : Bit) : (s.setSdaLvl v).ld.sdaLvl = v := rfl
@[simp] theorem State.setSdaLvl_ld_sclDir (s : State) (v : Bit) : (s.setSdaLvl v).ld.sclDir = s.ld.sclDir := rfl
@[simp] theorem State.setSdaLvl_ld_sclLvl (s : State) (v : Bit) : (s.setSdaLvl v).ld.sclLvl = s.ld.sclLvl := rfl
@[simp] theorem State.setSdaLvl_lopSda (s : State) (v : Bit) : (s.setSdaLvl v).lopSda = s.lopSda := rfl
@[simp] theorem State.setSdaLvl_offers (s : State) (v : Bit) : (s.setSdaLvl v).offers = s.offers := rfl
@[simp] theorem State.setSdaLvl_events (s : State) (v : Bit) : (s.setSdaLvl v).events = s.events := rfl
@[simp] theorem State.setSdaLvl_samples (s : State) (v : Bit) : (s.setSdaLvl v).samples = s.samples := rfl
@[simp] theorem State.setSdaLvl_draws (s : State) (v : Bit) : (s.setSdaLvl v).draws = s.draws := rfl
@[simp] theorem State.setSdaLvl_trace (s : State) (v : Bit) : (s.setSdaLvl v).trace = s.trace := rfl

/-! ### State.takeIllegal -/

@[simp] theorem State.takeIllegal_engine (s : State) : s.takeIllegal.engine = s.engine := rfl
@[simp] theorem State.takeIllegal_status_ack (s : State) : s.takeIllegal.status.ack = s.status.ack := rfl
@[simp] theorem State.takeIllegal_status_illegal (s : State) : s.takeIllegal.status.illegal = true := rfl
@[simp] theorem State.takeIllegal_status_rxData (s : State) : s.takeIllegal.status.rxData = s.status.rxData := rfl
@[simp] theorem State.takeIllegal_ld (s : State) : s.takeIllegal.ld = s.ld := rfl
@[simp] theorem State.takeIllegal_lopSda (s : State) : s.takeIllegal.lopSda = s.lopSda := rfl
@[simp] theorem State.takeIllegal_offers (s : State) : s.takeIllegal.offers = s.offers := rfl
@[simp] theorem State.takeIllegal_events (s : State) : s.takeIllegal.events = s.events := rfl
@[simp] theorem State.takeIllegal_samples (s : State) : s.takeIllegal.samples = s.samples := rfl
@[simp] theorem State.takeIllegal_draws (s : State) : s.takeIllegal.draws = s.draws := rfl
@[simp] theorem State.takeIllegal_trace (s : State) : s.takeIllegal.trace = s.trace := rfl

/-! ### State.accept -/

@[simp] theorem State.accept_engine (s : State) (c : Word) : (s.accept c).engine = .accepting c := rfl
@[simp] theorem State.accept_status_ack (s : State) (c : Word) : (s.accept c).status.ack = s.status.ack := rfl
@[simp] theorem State.accept_status_illegal (s : State) (c : Word) : (s.accept c).status.illegal = false := rfl
@[simp] theorem State.accept_status_rxData (s : State) (c : Word) : (s.accept c).status.rxData = s.status.rxData := rfl
@[simp] theorem State.accept_ld (s : State) (c : Word) : (s.accept c).ld = s.ld := rfl
@[simp] theorem State.accept_lopSda (s : State) (c : Word) : (s.accept c).lopSda = s.lopSda := rfl
@[simp] theorem State.accept_offers (s : State) (c : Word) : (s.accept c).offers = s.offers := rfl
@[simp] theorem State.accept_events (s : State) (c : Word) : (s.accept c).events = s.events := rfl
@[simp] theorem State.accept_samples (s : State) (c : Word) : (s.accept c).samples = s.samples := rfl
@[simp] theorem State.accept_draws (s : State) (c : Word) : (s.accept c).draws = s.draws := rfl
@[simp] theorem State.accept_trace (s : State) (c : Word) : (s.accept c).trace = s.trace := rfl

/-! ### State.resetEngine -/

@[simp] theorem State.resetEngine_engine (s : State) : s.resetEngine.engine = .reset := rfl
@[simp] theorem State.resetEngine_status (s : State) : s.resetEngine.status = .reset := rfl
@[simp] theorem State.resetEngine_ld (s : State) : s.resetEngine.ld = s.ld := rfl
@[simp] theorem State.resetEngine_lopSda (s : State) : s.resetEngine.lopSda = s.lopSda := rfl
@[simp] theorem State.resetEngine_offers (s : State) : s.resetEngine.offers = s.offers := rfl
@[simp] theorem State.resetEngine_events (s : State) : s.resetEngine.events = s.events := rfl
@[simp] theorem State.resetEngine_samples (s : State) : s.resetEngine.samples = s.samples := rfl
@[simp] theorem State.resetEngine_draws (s : State) : s.resetEngine.draws = s.draws := rfl
@[simp] theorem State.resetEngine_trace (s : State) : s.resetEngine.trace = s.trace := rfl

/-! ### State.writeAck -/

@[simp] theorem State.writeAck_engine (s : State) : s.writeAck.engine = s.engine := rfl
@[simp] theorem State.writeAck_status_ack (s : State) : s.writeAck.status.ack = s.engine.ackBit := rfl
@[simp] theorem State.writeAck_status_illegal (s : State) : s.writeAck.status.illegal = s.status.illegal := rfl
@[simp] theorem State.writeAck_status_rxData (s : State) : s.writeAck.status.rxData = s.status.rxData := rfl
@[simp] theorem State.writeAck_ld (s : State) : s.writeAck.ld = s.ld := rfl
@[simp] theorem State.writeAck_lopSda (s : State) : s.writeAck.lopSda = s.lopSda := rfl
@[simp] theorem State.writeAck_offers (s : State) : s.writeAck.offers = s.offers := rfl
@[simp] theorem State.writeAck_events (s : State) : s.writeAck.events = s.events := rfl
@[simp] theorem State.writeAck_samples (s : State) : s.writeAck.samples = s.samples := rfl
@[simp] theorem State.writeAck_draws (s : State) : s.writeAck.draws = s.draws := rfl
@[simp] theorem State.writeAck_trace (s : State) : s.writeAck.trace = s.trace := rfl

/-! ### State.writeRxData -/

@[simp] theorem State.writeRxData_engine (s : State) : s.writeRxData.engine = s.engine := rfl
@[simp] theorem State.writeRxData_status_ack (s : State) : s.writeRxData.status.ack = s.status.ack := rfl
@[simp] theorem State.writeRxData_status_illegal (s : State) : s.writeRxData.status.illegal = s.status.illegal := rfl
@[simp] theorem State.writeRxData_status_rxData (s : State) : s.writeRxData.status.rxData = s.engine.shift := rfl
@[simp] theorem State.writeRxData_ld (s : State) : s.writeRxData.ld = s.ld := rfl
@[simp] theorem State.writeRxData_lopSda (s : State) : s.writeRxData.lopSda = s.lopSda := rfl
@[simp] theorem State.writeRxData_offers (s : State) : s.writeRxData.offers = s.offers := rfl
@[simp] theorem State.writeRxData_events (s : State) : s.writeRxData.events = s.events := rfl
@[simp] theorem State.writeRxData_samples (s : State) : s.writeRxData.samples = s.samples := rfl
@[simp] theorem State.writeRxData_draws (s : State) : s.writeRxData.draws = s.draws := rfl
@[simp] theorem State.writeRxData_trace (s : State) : s.writeRxData.trace = s.trace := rfl

/-! ### State.shiftIn -/

@[simp] theorem State.shiftIn_engine_busy (s : State) : s.shiftIn.engine.busy = s.engine.busy := rfl
@[simp] theorem State.shiftIn_engine_cmd (s : State) : s.shiftIn.engine.cmd = s.engine.cmd := rfl
@[simp] theorem State.shiftIn_engine_step (s : State) : s.shiftIn.engine.step = s.engine.step := rfl
@[simp] theorem State.shiftIn_engine_shift (s : State) : s.shiftIn.engine.shift = (s.engine.shift <<< 1) ||| s.lopSda.setWidth 8 := rfl
@[simp] theorem State.shiftIn_engine_ackBit (s : State) : s.shiftIn.engine.ackBit = s.engine.ackBit := rfl
@[simp] theorem State.shiftIn_status (s : State) : s.shiftIn.status = s.status := rfl
@[simp] theorem State.shiftIn_ld (s : State) : s.shiftIn.ld = s.ld := rfl
@[simp] theorem State.shiftIn_lopSda (s : State) : s.shiftIn.lopSda = s.lopSda := rfl
@[simp] theorem State.shiftIn_offers (s : State) : s.shiftIn.offers = s.offers := rfl
@[simp] theorem State.shiftIn_events (s : State) : s.shiftIn.events = s.events := rfl
@[simp] theorem State.shiftIn_samples (s : State) : s.shiftIn.samples = s.samples := rfl
@[simp] theorem State.shiftIn_draws (s : State) : s.shiftIn.draws = s.draws := rfl
@[simp] theorem State.shiftIn_trace (s : State) : s.shiftIn.trace = s.trace := rfl

/-! ### State.latchAck -/

@[simp] theorem State.latchAck_engine_busy (s : State) : s.latchAck.engine.busy = s.engine.busy := rfl
@[simp] theorem State.latchAck_engine_cmd (s : State) : s.latchAck.engine.cmd = s.engine.cmd := rfl
@[simp] theorem State.latchAck_engine_step (s : State) : s.latchAck.engine.step = s.engine.step := rfl
@[simp] theorem State.latchAck_engine_shift (s : State) : s.latchAck.engine.shift = s.engine.shift := rfl
@[simp] theorem State.latchAck_engine_ackBit (s : State) : s.latchAck.engine.ackBit = s.lopSda := rfl
@[simp] theorem State.latchAck_status (s : State) : s.latchAck.status = s.status := rfl
@[simp] theorem State.latchAck_ld (s : State) : s.latchAck.ld = s.ld := rfl
@[simp] theorem State.latchAck_lopSda (s : State) : s.latchAck.lopSda = s.lopSda := rfl
@[simp] theorem State.latchAck_offers (s : State) : s.latchAck.offers = s.offers := rfl
@[simp] theorem State.latchAck_events (s : State) : s.latchAck.events = s.events := rfl
@[simp] theorem State.latchAck_samples (s : State) : s.latchAck.samples = s.samples := rfl
@[simp] theorem State.latchAck_draws (s : State) : s.latchAck.draws = s.draws := rfl
@[simp] theorem State.latchAck_trace (s : State) : s.latchAck.trace = s.trace := rfl

/-! ### State.advance -/

@[simp] theorem State.advance_engine_busy (s : State) : s.advance.engine.busy = s.engine.busy := rfl
@[simp] theorem State.advance_engine_cmd (s : State) : s.advance.engine.cmd = s.engine.cmd := rfl
@[simp] theorem State.advance_engine_step (s : State) : s.advance.engine.step = s.engine.step + 1 := rfl
@[simp] theorem State.advance_engine_shift (s : State) : s.advance.engine.shift = s.engine.shift := rfl
@[simp] theorem State.advance_engine_ackBit (s : State) : s.advance.engine.ackBit = s.engine.ackBit := rfl
@[simp] theorem State.advance_status (s : State) : s.advance.status = s.status := rfl
@[simp] theorem State.advance_ld (s : State) : s.advance.ld = s.ld := rfl
@[simp] theorem State.advance_lopSda (s : State) : s.advance.lopSda = s.lopSda := rfl
@[simp] theorem State.advance_offers (s : State) : s.advance.offers = s.offers := rfl
@[simp] theorem State.advance_events (s : State) : s.advance.events = s.events := rfl
@[simp] theorem State.advance_samples (s : State) : s.advance.samples = s.samples := rfl
@[simp] theorem State.advance_draws (s : State) : s.advance.draws = s.draws := rfl
@[simp] theorem State.advance_trace (s : State) : s.advance.trace = s.trace := rfl

/-! ### State.clearBusy -/

@[simp] theorem State.clearBusy_engine_busy (s : State) : s.clearBusy.engine.busy = false := rfl
@[simp] theorem State.clearBusy_engine_cmd (s : State) : s.clearBusy.engine.cmd = s.engine.cmd := rfl
@[simp] theorem State.clearBusy_engine_step (s : State) : s.clearBusy.engine.step = s.engine.step := rfl
@[simp] theorem State.clearBusy_engine_shift (s : State) : s.clearBusy.engine.shift = s.engine.shift := rfl
@[simp] theorem State.clearBusy_engine_ackBit (s : State) : s.clearBusy.engine.ackBit = s.engine.ackBit := rfl
@[simp] theorem State.clearBusy_status (s : State) : s.clearBusy.status = s.status := rfl
@[simp] theorem State.clearBusy_ld (s : State) : s.clearBusy.ld = s.ld := rfl
@[simp] theorem State.clearBusy_lopSda (s : State) : s.clearBusy.lopSda = s.lopSda := rfl
@[simp] theorem State.clearBusy_offers (s : State) : s.clearBusy.offers = s.offers := rfl
@[simp] theorem State.clearBusy_events (s : State) : s.clearBusy.events = s.events := rfl
@[simp] theorem State.clearBusy_samples (s : State) : s.clearBusy.samples = s.samples := rfl
@[simp] theorem State.clearBusy_draws (s : State) : s.clearBusy.draws = s.draws := rfl
@[simp] theorem State.clearBusy_trace (s : State) : s.clearBusy.trace = s.trace := rfl

/-! ### State.dropSample and State.sampleSda -/

@[simp] theorem State.dropSample_engine (s : State) : s.dropSample.engine = s.engine := by
  unfold State.dropSample; split <;> rfl
@[simp] theorem State.dropSample_status (s : State) : s.dropSample.status = s.status := by
  unfold State.dropSample; split <;> rfl
@[simp] theorem State.dropSample_ld (s : State) : s.dropSample.ld = s.ld := by
  unfold State.dropSample; split <;> rfl
@[simp] theorem State.dropSample_lopSda (s : State) : s.dropSample.lopSda = s.lopSda := by
  unfold State.dropSample; split <;> rfl
@[simp] theorem State.dropSample_offers (s : State) : s.dropSample.offers = s.offers := by
  unfold State.dropSample; split <;> rfl
@[simp] theorem State.dropSample_events (s : State) : s.dropSample.events = s.events := by
  unfold State.dropSample; split <;> rfl
@[simp] theorem State.dropSample_trace (s : State) : s.dropSample.trace = s.trace := by
  unfold State.dropSample; split <;> rfl
@[simp] theorem State.sampleSda_lopSda (s : State) : s.sampleSda.lopSda = s.nextSample := rfl
@[simp] theorem State.sampleSda_engine (s : State) : s.sampleSda.engine = s.engine := State.dropSample_engine s
@[simp] theorem State.sampleSda_status (s : State) : s.sampleSda.status = s.status := State.dropSample_status s
@[simp] theorem State.sampleSda_ld (s : State) : s.sampleSda.ld = s.ld := State.dropSample_ld s
@[simp] theorem State.sampleSda_offers (s : State) : s.sampleSda.offers = s.offers := State.dropSample_offers s
@[simp] theorem State.sampleSda_events (s : State) : s.sampleSda.events = s.events := State.dropSample_events s
@[simp] theorem State.sampleSda_trace (s : State) : s.sampleSda.trace = s.trace := State.dropSample_trace s
@[simp] theorem State.sampleSda_samples (s : State) : s.sampleSda.samples = s.dropSample.samples := rfl
@[simp] theorem State.sampleSda_draws (s : State) : s.sampleSda.draws = s.dropSample.draws := rfl

/-! ### State.record -/

@[simp] theorem State.record_engine (s : State) (t : Template) : (s.record t).engine = s.engine := by cases t <;> rfl
@[simp] theorem State.record_status (s : State) (t : Template) : (s.record t).status = s.status := by cases t <;> rfl
@[simp] theorem State.record_ld (s : State) (t : Template) : (s.record t).ld = s.ld := by cases t <;> rfl
@[simp] theorem State.record_lopSda (s : State) (t : Template) : (s.record t).lopSda = s.lopSda := by cases t <;> rfl
@[simp] theorem State.record_offers (s : State) (t : Template) : (s.record t).offers = s.offers := by cases t <;> rfl
@[simp] theorem State.record_events (s : State) (t : Template) : (s.record t).events = s.events := by cases t <;> rfl
@[simp] theorem State.record_samples (s : State) (t : Template) : (s.record t).samples = s.samples := by cases t <;> rfl
@[simp] theorem State.record_draws (s : State) (t : Template) : (s.record t).draws = s.draws := by cases t <;> rfl

/-! ### State.route -/

@[simp] theorem State.route_status (s : State) (t : Template) : (s.route t).status = s.status := by cases t <;> rfl
@[simp] theorem State.route_ld (s : State) (t : Template) : (s.route t).ld = s.ld := by cases t <;> rfl
@[simp] theorem State.route_lopSda (s : State) (t : Template) : (s.route t).lopSda = s.lopSda := by cases t <;> rfl
@[simp] theorem State.route_offers (s : State) (t : Template) : (s.route t).offers = s.offers := by cases t <;> rfl
@[simp] theorem State.route_events (s : State) (t : Template) : (s.route t).events = s.events := by cases t <;> rfl
@[simp] theorem State.route_samples (s : State) (t : Template) : (s.route t).samples = s.samples := by cases t <;> rfl
@[simp] theorem State.route_draws (s : State) (t : Template) : (s.route t).draws = s.draws := by cases t <;> rfl
@[simp] theorem State.route_trace (s : State) (t : Template) : (s.route t).trace = s.trace := by cases t <;> rfl
@[simp] theorem State.route_engine_busy (s : State) (t : Template) : (s.route t).engine.busy = s.engine.busy := by
  cases t <;> rfl
@[simp] theorem State.route_engine_cmd (s : State) (t : Template) : (s.route t).engine.cmd = s.engine.cmd := by
  cases t <;> rfl
@[simp] theorem State.route_engine_step (s : State) (t : Template) : (s.route t).engine.step = s.engine.step := by
  cases t <;> rfl

/-! ### State.writeResult and State.complete -/

@[simp] theorem State.writeResult_engine (s : State) (i : Instr) : (s.writeResult i).engine = s.engine := by cases i <;> rfl
@[simp] theorem State.writeResult_ld (s : State) (i : Instr) : (s.writeResult i).ld = s.ld := by cases i <;> rfl
@[simp] theorem State.writeResult_lopSda (s : State) (i : Instr) : (s.writeResult i).lopSda = s.lopSda := by cases i <;> rfl
@[simp] theorem State.writeResult_offers (s : State) (i : Instr) : (s.writeResult i).offers = s.offers := by cases i <;> rfl
@[simp] theorem State.writeResult_events (s : State) (i : Instr) : (s.writeResult i).events = s.events := by cases i <;> rfl
@[simp] theorem State.writeResult_samples (s : State) (i : Instr) : (s.writeResult i).samples = s.samples := by cases i <;> rfl
@[simp] theorem State.writeResult_draws (s : State) (i : Instr) : (s.writeResult i).draws = s.draws := by cases i <;> rfl
@[simp] theorem State.writeResult_trace (s : State) (i : Instr) : (s.writeResult i).trace = s.trace := by cases i <;> rfl
@[simp] theorem State.writeResult_status_illegal (s : State) (i : Instr) :
    (s.writeResult i).status.illegal = s.status.illegal := by cases i <;> rfl
@[simp] theorem State.complete_ld (s : State) : s.complete.ld = s.ld := by
  unfold State.complete; split <;> simp
@[simp] theorem State.complete_lopSda (s : State) : s.complete.lopSda = s.lopSda := by
  unfold State.complete; split <;> simp
@[simp] theorem State.complete_offers (s : State) : s.complete.offers = s.offers := by
  unfold State.complete; split <;> simp
@[simp] theorem State.complete_events (s : State) : s.complete.events = s.events := by
  unfold State.complete; split <;> simp
@[simp] theorem State.complete_samples (s : State) : s.complete.samples = s.samples := by
  unfold State.complete; split <;> simp
@[simp] theorem State.complete_draws (s : State) : s.complete.draws = s.draws := by
  unfold State.complete; split <;> simp
@[simp] theorem State.complete_trace (s : State) : s.complete.trace = s.trace := by
  unfold State.complete; split <;> simp
@[simp] theorem State.complete_engine (s : State) : s.complete.engine = { s.engine with busy := false } := by
  unfold State.complete; split <;> simp [State.clearBusy]
@[simp] theorem State.complete_status_illegal (s : State) : s.complete.status.illegal = s.status.illegal := by
  unfold State.complete; split <;> simp

/-! ### Engine.accepting and Engine.reset -/

@[simp] theorem Engine.accepting_busy (c : Word) : (Engine.accepting c).busy = true := rfl
@[simp] theorem Engine.accepting_cmd (c : Word) : (Engine.accepting c).cmd = c := rfl
@[simp] theorem Engine.accepting_step (c : Word) : (Engine.accepting c).step = 0 := rfl
@[simp] theorem Engine.accepting_shift (c : Word) : (Engine.accepting c).shift = 0x00#8 := rfl
@[simp] theorem Engine.accepting_ackBit (c : Word) : (Engine.accepting c).ackBit = 1#1 := rfl
@[simp] theorem Engine.reset_busy : Engine.reset.busy = false := rfl
@[simp] theorem Engine.reset_cmd : Engine.reset.cmd = 0x0000#16 := rfl
@[simp] theorem Engine.reset_step : Engine.reset.step = 0 := rfl
@[simp] theorem Engine.reset_shift : Engine.reset.shift = 0x00#8 := rfl
@[simp] theorem Engine.reset_ackBit : Engine.reset.ackBit = 1#1 := rfl

end Sys2Proof.Machine
end

