-- ==== Sys2Proof/Laws/Ops.lean ====
section
/-! SUPPORT. What each shared operation and each meaning can do, said once: if it answers a next state, which one. -/

namespace Sys2Proof.Machine

/-- A command word on the port is taken exactly when BUSY = 0 (R100); it never stops. -/
theorem takeCommand_cases (c : Word) (s : State) :
    (s.engine.busy = false ∧ takeCommand c s = .next (s.accept c)) ∨
      (s.engine.busy = true ∧ takeCommand c s = .next s) := by
  cases h : s.engine.busy <;> simp [takeCommand, h]

/-- SDA_LVL answers a next state only while SDA is an output, and then only its latch moves (R56). -/
theorem execSdaLvl_next {v : Bit} {s t : State} (h : execSdaLvl v s = .next t) :
    s.ld.sdaDir = .output ∧ t = s.setSdaLvl v := by
  unfold execSdaLvl at h
  split at h
  · exact ⟨‹_›, by simpa using h.symm⟩
  · cases h

/-- GET_SDA answers a next state only while SDA is an input, and then only draws a bit (R57). -/
theorem execGetSda_next {s t : State} (h : execGetSda s = .next t) :
    s.ld.sdaDir = .input ∧ t = s.sampleSda := by
  unfold execGetSda at h
  split at h
  · exact ⟨‹_›, by simpa using h.symm⟩
  · cases h

/-- A line op never touches the engine, the status word, the outside's queues of words and events or the observation; what
it changes is the Line Driver, lop_sda and the draws (R51). -/
theorem exec_lineOp_frame {i : Instr} {s t : State} (hi : i.isCommand = false) (h : exec i s = .next t) :
    t.engine = s.engine ∧ t.status = s.status ∧ t.offers = s.offers ∧ t.events = s.events ∧ t.trace = s.trace := by
  cases i with
  | configure | start | stop | writeByte | readByte | writeAddress | readAddress | busReset => cases hi
  | hold m => cases h; simp
  | dirSda d => cases h; simp
  | dirScl d => cases h; simp
  | sclLvl v => cases h; simp
  | sdaLvl v => obtain ⟨-, rfl⟩ := execSdaLvl_next h; simp
  | getSda => obtain ⟨-, rfl⟩ := execGetSda_next h; simp

/-- A line op never ends in a fault. -/
theorem exec_ne_fault (i : Instr) (s : State) (f : Fault) : exec i s ≠ .fault f := by
  have command (c : Word) : takeCommand c s ≠ .fault f := by
    rcases takeCommand_cases c s with ⟨-, h⟩ | ⟨-, h⟩ <;> simp [h]
  have sda (v : Bit) : execSdaLvl v s ≠ .fault f := by
    unfold execSdaLvl; split <;> simp
  have get : execGetSda s ≠ .fault f := by
    unfold execGetSda; split <;> simp
  cases i with
  | configure | start | stop | writeByte | readByte | writeAddress | readAddress | busReset => exact command _
  | hold | dirSda | dirScl | sclLvl => exact fun h => nomatch h
  | sdaLvl v => exact sda v
  | getSda => exact get

/-- What a template issues is a line op (R109). -/
@[simp] theorem lineOpOf_isCommand (t : Template) : (lineOpOf t).isCommand = false := by cases t <;> rfl

/-- HOLD_MULT is 1 or 2 (R9, R83). -/
theorem holdMult_cases (site : HoldSite) : holdMult site = 1#2 ∨ holdMult site = 2#2 := by
  unfold holdMult; split <;> simp

end Sys2Proof.Machine
end

