-- ==== Sys2Proof/Laws/PerInstr.lean ====
section
/-! SUPPORT. Statements made per instruction. The family MatchMask: an instruction's word meets the match and mask columns
of its row (spec/30_encoding.md R72 for commands, R78 for line ops). -/

namespace Sys2Proof.Laws.MatchMask

/-- The match and mask columns of an instruction's row (R72, R78). -/
def columns : Instr → Nat × Nat
  | .configure => (0x0001, 0xFFFF)
  | .start => (0x0002, 0xFFFF)
  | .stop => (0x0003, 0xFFFF)
  | .writeByte _ => (0x0004, 0x00FF)
  | .readByte _ => (0x0005, 0xFFEF)
  | .writeAddress _ => (0x0006, 0x80FF)
  | .readAddress _ => (0x0007, 0x80FF)
  | .busReset => (0x0008, 0xFFFF)
  | .hold _ => (0x00, 0x07)
  | .dirSda _ => (0x01, 0x17)
  | .dirScl _ => (0x02, 0x17)
  | .sclLvl _ => (0x03, 0x17)
  | .sdaLvl _ => (0x04, 0x17)
  | .getSda => (0x05, 0x1F)

/-- The number a port word is. -/
def number : PortWord → Nat
  | .command c => c.toNat
  | .lineOp w => w.toNat

/-- The word of the instruction, under its row's mask, is its row's match. -/
def Statement (i : Instr) : Prop := (number (encode i)) &&& (columns i).2 = (columns i).1

theorem configure : Statement .configure := by unfold Statement; decide
theorem start : Statement .start := by unfold Statement; decide
theorem stop : Statement .stop := by unfold Statement; decide
theorem writeByte (b : Byte) : Statement (.writeByte b) := by
  revert b; unfold Statement; decide
theorem readByte (k : Bit) : Statement (.readByte k) := by
  revert k; unfold Statement; decide
theorem writeAddress (a : Address) : Statement (.writeAddress a) := by
  revert a; unfold Statement; decide
theorem readAddress (a : Address) : Statement (.readAddress a) := by
  revert a; unfold Statement; decide
theorem busReset : Statement .busReset := by unfold Statement; decide
theorem hold (m : BitVec 2) : Statement (.hold m) := by
  revert m; unfold Statement; decide
theorem dirSda (d : Dir) : Statement (.dirSda d) := by
  cases d <;> (unfold Statement; decide)
theorem dirScl (d : Dir) : Statement (.dirScl d) := by
  cases d <;> (unfold Statement; decide)
theorem sclLvl (v : Bit) : Statement (.sclLvl v) := by
  revert v; unfold Statement; decide
theorem sdaLvl (v : Bit) : Statement (.sdaLvl v) := by
  revert v; unfold Statement; decide
theorem getSda : Statement .getSda := by unfold Statement; decide

end Sys2Proof.Laws.MatchMask
end

