-- ==== Sys2Proof/Laws/Sequencer.lean ====
section
/-! SUPPORT. What a step can do, said once: `microStep_next` for a micro-step, `takeWord_cases` for the command port and
`step_cases` for the whole step. Later proofs take these apart instead of unfolding the step. -/

namespace Sys2Proof.Machine

/-- A list lookup that succeeds is within the list: a micro-step has an E.STEP below the length of its list (R103). -/
theorem State.template?_lt {s : State} {t : Template} (h : s.template? = some t) :
    s.engine.step < (ops s.engine.cmd).length := by
  unfold State.template? at h
  exact (List.getElem?_eq_some_iff.mp h).1

/-- What retiring a line op leaves (R103, R105). -/
theorem State.retire_frame (s : State) (t : Template) :
    (s.retire t).engine.cmd = s.engine.cmd ∧ (s.retire t).engine.step = s.engine.step + 1 ∧
      (s.retire t).ld = s.ld ∧ (s.retire t).offers = s.offers ∧ (s.retire t).events = s.events ∧
      (s.retire t).samples = s.samples ∧ (s.retire t).draws = s.draws ∧ (s.retire t).lopSda = s.lopSda ∧
      (s.retire t).status.illegal = s.status.illegal ∧ (s.retire t).trace = (s.record t).trace := by
  unfold State.retire
  simp only
  split <;> simp

/-- BUSY falls exactly in the micro-step of the last line op (R103, R105). -/
theorem State.retire_busy (s : State) (t : Template) :
    (s.retire t).engine.busy = (s.engine.busy && !(s.engine.step + 1 == (ops s.engine.cmd).length)) := by
  unfold State.retire
  simp only
  split <;> rename_i h <;> simp only [State.advance_engine_step, State.advance_engine_cmd, State.route_engine_step,
    State.route_engine_cmd, State.record_engine] at h <;> simp [h]

/-- A micro-step that answers a next state performs the template E.CMD and E.STEP name and retires it (R103). -/
theorem microStep_next {s t : State} (h : microStep s = .next t) :
    ∃ p u, s.template? = some p ∧ exec (lineOpOf p) s = .next u ∧ t = u.retire p := by
  unfold microStep at h
  split at h
  · cases h
  · rename_i p hp
    split at h <;> cases h
    exact ⟨p, _, hp, ‹_›, rfl⟩

/-- Two states in which the same line op is issued and completes have micro-steps alike: the converse of
`microStep_next`. -/
theorem microStep_eq {s u : State} {p : Template} (hp : s.template? = some p) (hu : exec (lineOpOf p) s = .next u) :
    microStep s = .next (u.retire p) := by
  simp [microStep, hp, hu]

/-- The command port: an illegal word sets ILLEGAL, a legal one is executed (R100, R101). -/
theorem takeWord_cases (c : Word) (s : State) :
    (∃ i, decodeCommand c = .ok i ∧ takeWord c s = exec i s) ∨
      (∃ e, decodeCommand c = .error e ∧ takeWord c s = .next s.takeIllegal) := by
  unfold takeWord
  cases h : decodeCommand c with
  | ok i => exact .inl ⟨i, rfl, rfl⟩
  | error e => exact .inr ⟨e, rfl, rfl⟩

/-- A state once the event at the head of the queue, if there is one, has been taken off it. -/
def State.popEvent (s : State) : State := { s with events := s.events.tail }

/-- What a step can do, when it answers a next state (R111, R204). -/
theorem step_cases {s t : State} (h : step s = .next t) :
    (∃ done es, s.events = .blockReset done :: es ∧ blockResetStep done s.popEvent = .next t) ∨
      (∃ w es, s.events = .lineOp w :: es ∧ lineOpStep w s.popEvent = .next t) ∨
      (s.engine.busy = true ∧ t = s.popEvent) ∨
      (s.engine.busy = false ∧ t = s.popEvent) ∨
      (s.engine.busy = false ∧ ∃ c cs, s.offers = c :: cs ∧ takeWord c { s.popEvent with offers := cs } = .next t) ∨
      (s.engine.busy = true ∧ microStep s.popEvent = .next t) := by
  have idle {u : State} (hb : u.engine.busy = false) (hs : idleStep u = .next t) :
      t = u ∨ ∃ c cs, u.offers = c :: cs ∧ takeWord c { u with offers := cs } = .next t := by
    unfold idleStep at hs
    split at hs
    · exact .inl (by simpa using hs.symm)
    · exact .inr ⟨_, _, ‹_›, hs⟩
  have engine {u : State} (hs : engineStep u = .next t) :
      (u.engine.busy = false ∧ (t = u ∨ ∃ c cs, u.offers = c :: cs ∧ takeWord c { u with offers := cs } = .next t)) ∨
        (u.engine.busy = true ∧ microStep u = .next t) := by
    unfold engineStep at hs
    split at hs
    · exact .inr ⟨‹_›, hs⟩
    · rename_i hb
      exact .inl ⟨by simpa using hb, idle (by simpa using hb) hs⟩
  unfold step cycle at h
  split at h
  · rename_i he
    have hp : s.popEvent = s := by obtain ⟨_, _, _, _, _, _, _, _, _⟩ := s; subst he; rfl
    rw [hp]
    rcases engine h with ⟨hb, rfl | hc⟩ | ⟨hb, hm⟩
    · exact .inr (.inr (.inr (.inl ⟨hb, rfl⟩)))
    · exact .inr (.inr (.inr (.inr (.inl ⟨hb, hc⟩))))
    · exact .inr (.inr (.inr (.inr (.inr ⟨hb, hm⟩))))
  · rename_i es he
    have hp : s.popEvent = { s with events := es } := by simp [State.popEvent, he]
    rw [hp]
    rcases engine h with ⟨hb, rfl | hc⟩ | ⟨hb, hm⟩
    · exact .inr (.inr (.inr (.inl ⟨hb, rfl⟩)))
    · exact .inr (.inr (.inr (.inr (.inl ⟨hb, hc⟩))))
    · exact .inr (.inr (.inr (.inr (.inr ⟨hb, hm⟩))))
  · rename_i es he
    have hp : s.popEvent = { s with events := es } := by simp [State.popEvent, he]
    rw [hp]
    unfold hostIdleStep at h
    split at h
    · exact .inr (.inr (.inr (.inr (.inr ⟨‹_›, h⟩))))
    · rename_i hb
      exact .inr (.inr (.inr (.inl ⟨by simpa using hb, by simpa using h.symm⟩)))
  · rename_i es he
    have hp : s.popEvent = { s with events := es } := by simp [State.popEvent, he]
    rw [hp]
    unfold stallStep at h
    split at h
    · exact .inr (.inr (.inl ⟨‹_›, by simpa using h.symm⟩))
    · rename_i hn
      have hb : s.engine.busy = false := by simpa using hn
      rcases idle (u := { s with events := es }) hb h with rfl | hc
      · exact .inr (.inr (.inr (.inl ⟨hb, rfl⟩)))
      · exact .inr (.inr (.inr (.inr (.inl ⟨hb, hc⟩))))
  · rename_i done es he
    have hp : s.popEvent = { s with events := es } := by simp [State.popEvent, he]
    rw [hp]
    exact .inl ⟨done, es, he, h⟩
  · rename_i w es he
    have hp : s.popEvent = { s with events := es } := by simp [State.popEvent, he]
    rw [hp]
    exact .inr (.inl ⟨w, es, he, h⟩)

/-- With nothing from outside and BUSY = 1, a step is a micro-step (R111). -/
theorem step_busy {s : State} (hb : s.engine.busy = true) (he : s.events = []) : step s = microStep s := by
  simp [step, cycle, he, engineStep, hb]

/-- With nothing from outside and BUSY = 0, a step looks at the command port (R111). -/
theorem step_idle {s : State} (hb : s.engine.busy = false) (he : s.events = []) : step s = idleStep s := by
  simp [step, cycle, he, engineStep, hb]

end Sys2Proof.Machine
end

