-- ==== Sys2Proof/Laws/Run.lean ====
section
/-! SUPPORT. A run of micro-steps as a fold over the templates left to perform, so that a claim about a command of many line
ops is a claim about its list. -/

namespace Sys2Proof.Machine

/-- The line op of a template, where the Line Driver does not refuse it. -/
def State.drive (s : State) : Template → State
  | .hold _ => s
  | .dirSda d => s.setSdaDir d
  | .dirScl d => s.setSclDir d
  | .scl v => s.setSclLvl v
  | .sda v => s.setSdaLvl v
  | .sampleData => s.sampleSda
  | .sampleAck => s.sampleSda

/-- A template performed and retired, but for completion. -/
def State.performed (s : State) (p : Template) : State := (((s.drive p).record p).route p).advance

/-- Whether the templates of a list can be performed in order, from the given direction of SDA: levels are driven only while
SDA is an output and samples taken only while it is an input (R56, R57). -/
def drivable : Dir → List Template → Bool
  | _, [] => true
  | _, .dirSda d :: l => drivable d l
  | d, .sda _ :: l => d == .output && drivable d l
  | d, .sampleData :: l => d == .input && drivable d l
  | d, .sampleAck :: l => d == .input && drivable d l
  | d, .hold _ :: l => drivable d l
  | d, .dirScl _ :: l => drivable d l
  | d, .scl _ :: l => drivable d l

/-- A drivable list's first template is performed. -/
theorem exec_lineOpOf {s : State} {p : Template} {l : List Template} (h : drivable s.ld.sdaDir (p :: l) = true) :
    exec (lineOpOf p) s = .next (s.drive p) ∧ drivable (s.drive p).ld.sdaDir l = true := by
  cases p with
  | hold | dirSda | dirScl | scl => exact ⟨rfl, h⟩
  | sda v =>
    obtain ⟨hd, hl⟩ : s.ld.sdaDir = .output ∧ drivable s.ld.sdaDir l = true := by simpa [drivable] using h
    exact ⟨by simp [exec, lineOpOf, execSdaLvl, hd, State.drive], hl⟩
  | sampleData | sampleAck =>
    obtain ⟨hd, hl⟩ : s.ld.sdaDir = .input ∧ drivable s.ld.sdaDir l = true := by simpa [drivable] using h
    exact ⟨by simp [exec, lineOpOf, execGetSda, hd, State.drive], by simpa [State.drive] using hl⟩

/-- The first of several steps. -/
theorem runFor_succ {s t : State} (n : Nat) (h : step s = .next t) : runFor (n + 1) s = runFor n t := by
  have hc : Sys2Proof.core.step s = .next t := h
  simp only [runFor, Host.Core.run, hc]
  rfl

@[simp] theorem State.drive_events (s : State) (p : Template) : (s.drive p).events = s.events := by cases p <;> simp [drive]
@[simp] theorem State.drive_engine (s : State) (p : Template) : (s.drive p).engine = s.engine := by cases p <;> simp [drive]
@[simp] theorem State.performed_events (s : State) (p : Template) : (s.performed p).events = s.events := by
  simp [performed]
@[simp] theorem State.performed_ld (s : State) (p : Template) : (s.performed p).ld = (s.drive p).ld := by
  simp [performed]
@[simp] theorem State.performed_engine_busy (s : State) (p : Template) :
    (s.performed p).engine.busy = s.engine.busy := by simp [performed]
@[simp] theorem State.performed_engine_cmd (s : State) (p : Template) :
    (s.performed p).engine.cmd = s.engine.cmd := by simp [performed]
@[simp] theorem State.performed_engine_step (s : State) (p : Template) :
    (s.performed p).engine.step = s.engine.step + 1 := by simp [performed]

/-- One micro-step of a command with `p :: l` left to perform: it performs `p`, and completes the command when nothing is
left. -/
theorem step_template {s : State} {pre l : List Template} {p : Template} (hb : s.engine.busy = true)
    (he : s.events = []) (ho : ops s.engine.cmd = pre ++ p :: l) (hs : s.engine.step = pre.length)
    (hd : drivable s.ld.sdaDir (p :: l) = true) :
    step s = .next (if l = [] then (s.performed p).complete else s.performed p) := by
  have ht : s.template? = some p := by simp [State.template?, ho, hs]
  rw [step_busy hb he, microStep_eq ht (exec_lineOpOf hd).1]
  have hc : ((s.drive p).record p |>.route p).advance = s.performed p := rfl
  simp only [State.retire, hc, State.performed_engine_step, State.performed_engine_cmd, ho, hs, List.length_append,
    List.length_cons]
  cases l <;> simp

/-- Part of a command: with `l ++ r` left to perform and `r` not empty, `l.length` steps perform `l`. -/
theorem run_part (l : List Template) {r : List Template} (hr : r ≠ []) :
    ∀ {s : State} {pre : List Template}, s.engine.busy = true → s.events = [] →
      ops s.engine.cmd = pre ++ (l ++ r) → s.engine.step = pre.length → drivable s.ld.sdaDir (l ++ r) = true →
      runFor l.length s = .next (l.foldl State.performed s) := by
  induction l with
  | nil => intros; rfl
  | cons p l ih =>
    intro s pre hb he ho hs hd
    have hstep := step_template (l := l ++ r) hb he ho hs hd
    have hne : l ++ r ≠ [] := by simp [hr]
    rw [if_neg hne] at hstep
    have := ih (s := s.performed p) (pre := pre ++ [p]) (by simpa) (by simpa) (by simpa using ho) (by simp [hs])
      (by simpa using (exec_lineOpOf hd).2)
    rw [List.length_cons, runFor_succ _ hstep, List.foldl_cons]
    exact this

/-- A whole command: with the list `l` left to perform, `l.length` steps perform it and complete the command. -/
theorem run_all (l : List Template) (hl : l ≠ []) :
    ∀ {s : State} {pre : List Template}, s.engine.busy = true → s.events = [] →
      ops s.engine.cmd = pre ++ l → s.engine.step = pre.length → drivable s.ld.sdaDir l = true →
      runFor l.length s = .next (l.foldl State.performed s).complete := by
  induction l with
  | nil => exact absurd rfl hl
  | cons p l ih =>
    intro s pre hb he ho hs hd
    have hstep := step_template hb he ho hs hd
    rw [List.length_cons, runFor_succ _ hstep, List.foldl_cons]
    by_cases hn : l = []
    · subst hn; rfl
    · rw [if_neg hn]
      exact ih hn (pre := pre ++ [p]) (by simpa) (by simpa) (by simpa using ho) (by simp [hs])
        (by simpa using (exec_lineOpOf hd).2)

/-- Every command's list is drivable from either direction of SDA: it sets the direction itself before it drives or samples
the line. -/
theorem drivable_opsOf (d : Dir) (i : Instr) : drivable d (opsOf i) = true := by
  cases i <;> cases d <;> rfl

/-! ### What a fold over templates leaves -/

@[simp] theorem foldl_performed_engine_cmd (l : List Template) :
    ∀ s : State, (l.foldl State.performed s).engine.cmd = s.engine.cmd := by
  induction l with
  | nil => intro s; rfl
  | cons p l ih => intro s; simp [ih]

@[simp] theorem foldl_performed_engine_busy (l : List Template) :
    ∀ s : State, (l.foldl State.performed s).engine.busy = s.engine.busy := by
  induction l with
  | nil => intro s; rfl
  | cons p l ih => intro s; simp [ih]

@[simp] theorem foldl_performed_engine_step (l : List Template) :
    ∀ s : State, (l.foldl State.performed s).engine.step = s.engine.step + l.length := by
  induction l with
  | nil => intro s; rfl
  | cons p l ih => intro s; simp [ih]; omega

/-- The line ops of the templates performed are added to the observation, in order. -/
theorem foldl_performed_issuedOps (l : List Template) :
    ∀ s : State, (l.foldl State.performed s).issuedOps = s.issuedOps ++ l.map lineOpOf := by
  induction l with
  | nil => intro s; simp
  | cons p l ih =>
    intro s
    have hp : (s.performed p).issuedOps = s.issuedOps ++ [lineOpOf p] := by
      cases p <;> simp [State.issuedOps, State.performed, State.record, State.drive]
    simp [ih, hp]

/-- The bits the next `n` GET_SDAs will return. -/
def State.nextSamples (s : State) (n : Nat) : List Bit := (List.range n).map s.sampleAt

theorem State.afterSamples_add (s : State) (m n : Nat) : (s.afterSamples m).afterSamples n = s.afterSamples (m + n) := by
  induction n with
  | zero => rfl
  | succ n ih => simp only [afterSamples, ih, Nat.add_eq]

/-- What the peers will return depends on the samples and the draws alone. -/
theorem State.sampleAt_congr {s t : State} (hs : s.samples = t.samples) (hd : s.draws = t.draws) (n : Nat) :
    s.sampleAt n = t.sampleAt n := by
  have h : (s.afterSamples n).samples = (t.afterSamples n).samples ∧ (s.afterSamples n).draws = (t.afterSamples n).draws := by
    induction n with
    | zero => exact ⟨hs, hd⟩
    | succ n ih =>
      simp only [afterSamples, dropSample, ih.1]
      split <;> simp [ih.2]
  simp only [sampleAt, nextSample, h.1, h.2]

/-- A template that samples takes the first bit; the others take none. -/
theorem performed_sampleAt (s : State) (p : Template) (n : Nat) :
    (s.performed p).sampleAt n = s.sampleAt (if lineOpOf p = .getSda then n + 1 else n) := by
  cases p with
  | hold | dirSda | dirScl | scl | sda =>
    rw [if_neg (by simp [lineOpOf])]
    exact State.sampleAt_congr (by rfl) (by rfl) n
  | sampleData | sampleAck =>
    have h : s.dropSample.sampleAt n = s.sampleAt (n + 1) := by
      rw [State.sampleAt, State.sampleAt, Nat.add_comm, ← State.afterSamples_add]
      rfl
    exact (State.sampleAt_congr (by simp [State.performed, State.drive]) (by simp [State.performed, State.drive]) n).trans h

/-- The observation one template adds. -/
theorem performed_trace (s : State) (p : Template) :
    (s.performed p).trace =
      { op := lineOpOf p, sample := if lineOpOf p = .getSda then some (s.sampleAt 0) else none } :: s.trace := by
  cases p <;> simp [State.performed, State.record, State.drive, lineOpOf, State.sampleAt, State.afterSamples]

/-- The observation a list of templates adds: its line ops, and for each GET_SDA the bit the peers returned (R236). -/
theorem foldl_performed_trace (l : List Template) :
    ∀ s : State, (l.foldl State.performed s).trace =
      (observe (l.map lineOpOf) (s.nextSamples ((l.map lineOpOf).count .getSda))).reverse ++ s.trace := by
  induction l with
  | nil => intro s; rfl
  | cons p l ih =>
    intro s
    have hb (n : Nat) : (s.performed p).nextSamples n = (s.nextSamples (if lineOpOf p = .getSda then n + 1 else n)).drop
        (if lineOpOf p = .getSda then 1 else 0) := by
      split <;> simp_all [State.nextSamples, performed_sampleAt, List.range_succ_eq_map, Function.comp_def]
    rw [List.foldl_cons, ih, performed_trace, hb]
    by_cases hp : lineOpOf p = .getSda <;>
      simp [observe, hp, State.nextSamples, List.range_succ_eq_map]

/-! ### Latches and bus conditions along a list -/

/-- The latches after one template (R53 to R56): a function of the latches alone. -/
def LineDriver.after (l : LineDriver) : Template → LineDriver
  | .dirSda d => { l with sdaDir := d }
  | .dirScl d => { l with sclDir := d }
  | .scl v => { l with sclLvl := v }
  | .sda v => { l with sdaLvl := v }
  | .hold _ | .sampleData | .sampleAck => l

theorem performed_latches (s : State) (p : Template) : (s.performed p).ld = s.ld.after p := by
  cases p with
  | hold | dirSda | dirScl | scl | sda => rfl
  | sampleData | sampleAck => simp [State.drive, LineDriver.after]

/-- The latches after a list are a fold over the list, whatever was sampled (R102). -/
theorem foldl_performed_latches (l : List Template) :
    ∀ s : State, (l.foldl State.performed s).ld = l.foldl LineDriver.after s.ld := by
  induction l with
  | nil => intro s; rfl
  | cons p l ih => intro s; rw [List.foldl_cons, List.foldl_cons, ih, performed_latches]

/-- The bus conditions a list makes, from the latches and the peers' levels alone. -/
def conditionsOf (peer : Nat → Bit) : List Template → Nat → LineDriver → List (Nat × BusCondition)
  | [], _, _ => []
  | p :: l, n, ld =>
    match busCondition ld (peer n) (ld.after p) (peer (n + 1)) with
    | some c => (n, c) :: conditionsOf peer l (n + 1) (ld.after p)
    | none => conditionsOf peer l (n + 1) (ld.after p)

/-- The conditions of one template, then those of the rest. -/
theorem conditionsOf_cons (peer : Nat → Bit) (p : Template) (l : List Template) (n : Nat) (ld : LineDriver) :
    conditionsOf peer (p :: l) n ld =
      ((busCondition ld (peer n) (ld.after p) (peer (n + 1))).toList.map fun c => (n, c)) ++
        conditionsOf peer l (n + 1) (ld.after p) := by
  rw [conditionsOf]
  cases busCondition ld (peer n) (ld.after p) (peer (n + 1)) <;> rfl

/-- The conditions of two lists one after the other. -/
theorem conditionsOf_append (peer : Nat → Bit) (l r : List Template) (n : Nat) (ld : LineDriver) :
    conditionsOf peer (l ++ r) n ld = conditionsOf peer l n ld ++ conditionsOf peer r (n + l.length) (l.foldl .after ld) := by
  induction l generalizing n ld with
  | nil => rfl
  | cons p l ih =>
    rw [List.cons_append, conditionsOf_cons, conditionsOf_cons, ih, List.append_assoc, List.length_cons, List.foldl_cons,
      Nat.add_right_comm, Nat.add_assoc]

/-- Each condition of a list stands at a position of the list. -/
theorem conditionsOf_position {peer : Nat → Bit} {l : List Template} {n : Nat} {ld : LineDriver} {x : Nat × BusCondition}
    (h : x ∈ conditionsOf peer l n ld) : n ≤ x.1 ∧ x.1 < n + l.length := by
  induction l generalizing n ld with
  | nil => cases h
  | cons p l ih =>
    rw [conditionsOf_cons, List.mem_append] at h
    rw [List.length_cons]
    rcases h with h | h
    · obtain ⟨c, -, rfl⟩ := List.mem_map.mp h
      simp
    · have := ih h
      omega

/-- The conditions the machine makes while it runs the list left to perform are the list's. -/
theorem busConditions_eq (peer : Nat → Bit) (l : List Template) :
    ∀ {s : State} {pre : List Template} (n : Nat), s.engine.busy = true → s.events = [] →
      ops s.engine.cmd = pre ++ l → s.engine.step = pre.length → drivable s.ld.sdaDir l = true →
      busConditions peer l.length n s = conditionsOf peer l n s.ld := by
  induction l with
  | nil => intros; rfl
  | cons p l ih =>
    intro s pre n hb he ho hs hd
    have hstep := step_template hb he ho hs hd
    rw [List.length_cons]
    simp only [busConditions, hstep, conditionsOf]
    by_cases hn : l = []
    · subst hn
      rw [if_pos rfl, State.complete_ld, performed_latches]
      rcases hc : busCondition s.ld (peer n) (s.ld.after p) (peer (n + 1)) <;> rfl
    · have := ih (s := s.performed p) (pre := pre ++ [p]) (n + 1) (by simpa) (by simpa) (by simpa using ho) (by simp [hs])
        (by simpa using (exec_lineOpOf hd).2)
      rw [performed_latches] at this
      rcases hc : busCondition s.ld (peer n) (s.ld.after p) (peer (n + 1)) <;>
        simp only [if_neg hn, performed_latches, this, hc]

/-! ### Lists -/

/-- The least time of two lists one after the other is the sum of their least times (R234). -/
theorem minDuration_append (l r : List Template) : minDuration (l ++ r) = minDuration l + minDuration r := by
  induction l with
  | nil => simp [minDuration]
  | cons p l ih => cases p <;> simp [minDuration, ih, Nat.add_assoc]

/-- The least time of a repeated list (R234). -/
theorem minDuration_repeatOps (n : Nat) (l : List Template) : minDuration (repeatOps n l) = n * minDuration l := by
  induction n with
  | zero => simp [repeatOps, minDuration]
  | succ n ih =>
    have h : repeatOps (n + 1) l = l ++ repeatOps n l := by simp [repeatOps, List.replicate_succ]
    rw [h, minDuration_append, ih, Nat.succ_mul, Nat.add_comm]

/-- The direction two lists leave: the second's, if it sets one, else the first's. -/
theorem lastSdaDir_append (l r : List Template) : lastSdaDir (l ++ r) = (lastSdaDir r).or (lastSdaDir l) := by
  induction l with
  | nil => simp [lastSdaDir]
  | cons p l ih => cases p <;> simp [lastSdaDir, ih]

/-- Two lists one after the other are drivable when the second is from the direction the first leaves. -/
theorem drivable_append (d : Dir) (l r : List Template) :
    drivable d (l ++ r) = (drivable d l && drivable ((lastSdaDir l).getD d) r) := by
  induction l generalizing d with
  | nil => simp [drivable, lastSdaDir]
  | cons p l ih => cases p <;> simp [drivable, lastSdaDir, ih, Bool.and_assoc]

/-! ### Commands -/

/-- The list of a word that decodes. -/
theorem ops_of_decode {c : Word} {i : Instr} (h : decodeCommand c = .ok i) : ops c = opsOf i := by simp [ops, h]

/-- Completion, by the command's instruction. -/
theorem complete_of_decode {s : State} {i : Instr} (h : decodeCommand s.engine.cmd = .ok i) :
    s.complete = (s.writeResult i).clearBusy := by simp [State.complete, h]

/-- A command accepted with nothing from outside runs its whole list and writes its result. -/
theorem run_command {s : State} {c : Word} {i : Instr} (he : s.events = []) (hd : decodeCommand c = .ok i)
    (hl : opsOf i ≠ []) :
    runFor (opsOf i).length (s.accept c) =
      .next ((((opsOf i).foldl State.performed (s.accept c)).writeResult i).clearBusy) := by
  have ho : ops (s.accept c).engine.cmd = [] ++ opsOf i := by simp [ops_of_decode hd]
  rw [run_all (opsOf i) hl (pre := []) (by simp) (by simpa using he) ho (by simp) (drivable_opsOf _ _),
    complete_of_decode (i := i) (by simpa using hd)]

/-- A command accepted with nothing from outside has run the first `n` of its line ops after `n` steps, as long as some are
left. -/
theorem run_command_part {s : State} {c : Word} {i : Instr} {n : Nat} (he : s.events = []) (hd : decodeCommand c = .ok i)
    (hn : n < (opsOf i).length) :
    runFor n (s.accept c) = .next (((opsOf i).take n).foldl State.performed (s.accept c)) := by
  have hr : (opsOf i).drop n ≠ [] := by simp; omega
  have h := run_part ((opsOf i).take n) hr (s := s.accept c) (pre := []) (by simp) (by simpa using he)
    (by simp [ops_of_decode hd]) (by simp) (by simpa using drivable_opsOf _ i)
  rwa [List.length_take_of_le (Nat.le_of_lt hn)] at h

/-- The conditions of a command accepted with nothing from outside are its list's. -/
theorem busConditions_command (peer : Nat → Bit) {s : State} {c : Word} {i : Instr} (he : s.events = [])
    (hd : decodeCommand c = .ok i) :
    busConditions peer (opsOf i).length 0 (s.accept c) = conditionsOf peer (opsOf i) 0 s.ld := by
  rw [busConditions_eq peer (opsOf i) (pre := []) 0 (by simp) (by simpa using he) (by simp [ops_of_decode hd]) (by simp)
    (drivable_opsOf _ _)]
  simp

end Sys2Proof.Machine
end

