-- ==== Sys2Proof/Tests/Slice0.lean ====
section
/-! SUPPORT. Tests: the well-formedness smoke, words written out from spec/30_encoding.md, single steps whose results stand
in spec/95_test_vectors.md, and for every statement with hypotheses a witness that meets them. -/

namespace Sys2Proof.Tests

open Sys2Proof Sys2Proof.Machine

/-! ### Helpers -/

/-- The outcome is a next state that meets the check. -/
def nextIs (r : Result) (p : State → Bool) : Bool :=
  match r with
  | .next t => p t
  | .fault _ | .refused _ => false

/-- The outcome is a refusal. -/
def isRefused (r : Result) : Bool :=
  match r with
  | .refused _ => true
  | .next _ | .fault _ => false

/-- The reset state with the Line Driver in a given state. -/
def withLd (l : LineDriver) : State := { State.reset with ld := l }

/-- A state in the middle of the command `c`, at position `n`, with the Line Driver as given. -/
def midCommand (c : Word) (n : Nat) (l : LineDriver) : State :=
  { withLd l with engine := { busy := true, cmd := c, step := n, shift := 0x00#8, ackBit := 1#1 } }

/-- The host offers these words. -/
def offering (ws : List Word) : State := { State.reset with offers := ws }

/-! ### Well-formedness -/

theorem test_hold_multiplier_zero_ill_formed : Instr.wellFormed (.hold 0#2) = false := by decide
theorem test_hold_multiplier_three_ill_formed : Instr.wellFormed (.hold 3#2) = false := by decide
theorem test_hold_multipliers_one_two_well_formed :
    Instr.wellFormed (.hold 1#2) = true ∧ Instr.wellFormed (.hold 2#2) = true := by decide

/-! ### Words, bit by bit from R70 to R72 (DATA, RSV, ACKSEL, OP) and R78 (ARG, KIND) -/

theorem test_decode_configure : decodeCommand 0b0000000000000001#16 = .ok .configure := by decide
theorem test_decode_start : decodeCommand 0b0000000000000010#16 = .ok .start := by decide
theorem test_decode_stop : decodeCommand 0b0000000000000011#16 = .ok .stop := by decide
theorem test_decode_write_byte : decodeCommand 0b1010010100000100#16 = .ok (.writeByte 0xA5#8) := by decide
theorem test_decode_read_byte_nack : decodeCommand 0b0000000000010101#16 = .ok (.readByte 1#1) := by decide
theorem test_decode_write_address : decodeCommand 0b0011110000000110#16 = .ok (.writeAddress 0x3C#7) := by decide
theorem test_decode_read_address : decodeCommand 0b0101000000000111#16 = .ok (.readAddress 0x50#7) := by decide
theorem test_decode_bus_reset : decodeCommand 0b0000000000001000#16 = .ok .busReset := by decide
theorem test_decode_hold : decodeLineOp 0b10000#5 = .ok (.hold 2#2) := by decide
theorem test_decode_dir_sda : decodeLineOp 0b01001#5 = .ok (.dirSda .output) := by decide
theorem test_decode_dir_scl : decodeLineOp 0b01010#5 = .ok (.dirScl .output) := by decide
theorem test_decode_scl_lvl : decodeLineOp 0b01011#5 = .ok (.sclLvl 1#1) := by decide
theorem test_decode_sda_lvl : decodeLineOp 0b00100#5 = .ok (.sdaLvl 0#1) := by decide
theorem test_decode_get_sda : decodeLineOp 0b00101#5 = .ok .getSda := by decide

/-- Illegal words of 95_test_vectors.md L2.1. -/
theorem test_decode_illegal :
    decodeCommand 0x0021#16 = .error .reservedField ∧ decodeCommand 0x0101#16 = .error .unusedData ∧
      decodeCommand 0xA514#16 = .error .unusedAckSel ∧ decodeCommand 0x8006#16 = .error .unusedData ∧
      decodeCommand 0x0009#16 = .error .reservedOpcode ∧ decodeCommand 0x0105#16 = .error .unusedData := by decide

/-- Line-op words outside the table of R78. -/
theorem test_decode_line_op_outside_table :
    decodeLineOp 0b00110#5 = .error .reservedKind ∧ decodeLineOp 0b10101#5 = .error .unusedArg ∧
      decodeLineOp 0b11001#5 = .error .unusedArg := by decide

/-- The port is told apart by the row's width. -/
theorem test_table_word_widths :
    decodeTableWord 16 0x0001 = some .configure ∧ decodeTableWord 8 0x01 = some (.dirSda .input) ∧
      decodeTableWord 8 0x20 = none := by decide

/-! ### Single steps -/

/-- The address byte of WRITE_ADDRESS 0x50 is 0xA0 and of READ_ADDRESS 0x50 is 0xA1 (L1.1, L1.2). -/
theorem test_address_bytes : addrByte 0x50#7 rwWrite = 0xA0#8 ∧ addrByte 0x50#7 rwRead = 0xA1#8 := by decide

/-- V1: 0x0009 from block reset sets ILLEGAL, and STATUS reads {0, 1, 1, 0x00}. -/
theorem test_illegal_word : nextIs (step (offering [0x0009#16])) (fun t => t.statusWord == 0x0006#16 && t.trace == []) := by
  decide

/-- V2: a legal word then clears ILLEGAL at acceptance, and BUSY is 1. -/
theorem test_acceptance_clears_illegal :
    nextIs (step { offering [0x0001#16] with status := { Status.reset with illegal := true } })
      (fun t => t.statusWord == 0x0003#16 && t.offers == []) := by decide

/-- V3: an illegal word keeps ACK and RXDATA. -/
theorem test_illegal_keeps_results :
    nextIs (step { offering [0x0105#16] with status := { ack := 0#1, illegal := false, rxData := 0x5A#8 } })
      (fun t => t.statusWord == 0x5A04#16) := by decide

/-- V5: WRITE_BYTE's last line op writes ACK from ACKBIT, keeps RXDATA, and BUSY falls. -/
theorem test_write_byte_completion :
    nextIs (step { midCommand 0x0004#16 56 (.afterWrite 0#1) with
        status := { ack := 0#1, illegal := false, rxData := 0x34#8 } })
      (fun t => t.statusWord == 0x3402#16 && t.engine.step == 57) := by decide

/-- V4: READ_BYTE's last line op writes RXDATA from SHIFT and leaves ACK. -/
theorem test_read_byte_completion :
    nextIs (step { midCommand 0x0015#16 49 { sdaDir := .output, sdaLvl := 1#1, sclDir := .output, sclLvl := 1#1 } with
        engine := { busy := true, cmd := 0x0015#16, step := 49, shift := 0xFF#8, ackBit := 1#1 }
        status := { ack := 0#1, illegal := false, rxData := 0x00#8 } })
      (fun t => t.statusWord == 0xFF00#16 && t.ld == .afterRead 1#1) := by decide

/-- READ_BYTE's sample at position 5 shifts the peers' bit in at the low end (R104). -/
theorem test_sample_data :
    nextIs (step { midCommand 0x0005#16 5 { sdaDir := .input, sdaLvl := 0#1, sclDir := .output, sclLvl := 1#1 } with
        engine := { busy := true, cmd := 0x0005#16, step := 5, shift := 0x41#8, ackBit := 1#1 }
        samples := [1#1, 0#1] })
      (fun t => t.engine.shift == 0x83#8 && t.samples == [0#1] && t.engine.ackBit == 1#1) := by decide

/-- WRITE_ADDRESS's sample at position 55 goes to ACKBIT, and STATUS.ACK does not move yet (R104, V6). -/
theorem test_sample_ack :
    nextIs (step { midCommand 0x3C06#16 55 { sdaDir := .input, sdaLvl := 0#1, sclDir := .output, sclLvl := 1#1 } with
        samples := [0#1] })
      (fun t => t.engine.ackBit == 0#1 && t.status.ack == 1#1 && t.engine.busy) := by decide

/-- V10: the SDA op at position 3 of WRITE_BYTE 0xA5 drives bit 7. -/
theorem test_write_byte_first_bit :
    nextIs (step (midCommand 0xA504#16 3 (.afterRead 0#1))) (fun t => t.ld == .afterRead 1#1) := by decide

/-- STOP's third line op drives SDA low before SCL rises (C3). -/
theorem test_stop_drives_sda_low_first :
    nextIs (step (midCommand 0x0003#16 2 (.afterRead 1#1))) (fun t => t.ld == .afterRead 0#1) := by decide

/-- V18: READ_BYTE directly after START releases SDA with SCL high, a STOP condition. -/
theorem test_read_after_start_makes_stop :
    nextIs (step (midCommand 0x0005#16 0 .started))
      (fun t => busCondition LineDriver.started 1#1 t.ld 1#1 == some .stop) := by decide

/-- V24: a peer's release of SDA in the HOLD(BR_HIGH) of pulse 3, position 15 of BUS_RESET, is a STOP condition; in the
HOLD(BR_LOW) of the same pulse, position 13, it is none. -/
theorem test_peer_release_in_pulse :
    nextIs (step (midCommand 0x0008#16 15 .idle))
        (fun t => busCondition LineDriver.idle 0#1 t.ld 1#1 == some .stop) ∧
      nextIs (step (midCommand 0x0008#16 13 (.afterRead 1#1)))
        (fun t => busCondition (LineDriver.afterRead 1#1) 0#1 t.ld 1#1 == none) := by decide

/-- V29: with a peer driving 0, the SDA(1) of STOP, position 5, makes no STOP condition. -/
theorem test_stop_under_low_peer :
    nextIs (step (midCommand 0x0003#16 5 .started))
      (fun t => t.ld == .idle && busCondition LineDriver.started 0#1 t.ld 0#1 == none) := by decide

/-- V26: block reset while position 19 (SCL(0)) of WRITE_BYTE is in flight: the level either fell or did not. -/
theorem test_block_reset_in_flight :
    nextIs (step { midCommand 0x0004#16 19 .idle with events := [.blockReset true] })
        (fun t => t.ld == .afterRead 1#1 && t.statusWord == 0x0002#16 && t.engine == .reset) ∧
      nextIs (step { midCommand 0x0004#16 19 .idle with events := [.blockReset false] })
        (fun t => t.ld == .idle && t.engine == .reset) := by decide

/-- A line op of another agent moves the latch and not the engine (R225). -/
theorem test_other_agents_line_op :
    nextIs (step { midCommand 0x0004#16 19 .idle with events := [.lineOp 0x03#5] })
      (fun t => t.ld == .afterRead 1#1 && t.engine.step == 19 && t.trace == []) := by decide

/-- I8 and I9: the two line ops the spec has a model refuse. -/
theorem test_refused_line_ops :
    isRefused (exec .getSda (withLd .idle)) ∧ isRefused (exec (.sdaLvl 1#1) State.reset) := by decide

/-- 95_test_vectors.md P2's words, from its assembler lines. -/
theorem test_assemble_read_reg :
    assemble [.line .configure, .readReg 0x50 0x10] =
      some [0x0001#16, 0x0002#16, 0x5006#16, 0x1004#16, 0x0002#16, 0x5007#16, 0x0015#16, 0x0003#16] := by decide

/-! ### The word placed for the next step is the one it runs -/

theorem test_fetch_commands :
    nextIs (step (State.reset.withFetchWord 16 0x0001)) (fun t => t.engine.cmd == 0x0001#16 && t.engine.busy) ∧
      nextIs (step (State.reset.withFetchWord 16 0x5007)) (fun t => t.engine.cmd == 0x5007#16 && t.engine.busy) := by decide

theorem test_fetch_line_ops :
    nextIs (step (State.reset.withFetchWord 8 0x00)) (fun t => t.events == []) ∧
      nextIs (step (State.reset.withFetchWord 8 0x0A)) (fun t => t.ld.sclDir == .output) ∧
      nextIs (step (State.reset.withFetchWord 8 0x0C)) (fun t => t.ld.sdaLvl == 1#1) ∧
      nextIs (step (State.reset.withFetchWord 8 0x05)) (fun t => t.draws == 1) := by decide

/-! ### Witnesses: for each statement with hypotheses, a state and operands that meet them -/

/-- ConfigureCompletes, StartCompletes, StopCompletes, WriteByteCompletes, ReadByteCompletes, WriteAddressCompletes,
ReadAddressCompletes, BusResetCompletes, AddressCommandIsByteCommand, ConfigureIsIdempotent, StartThenStopLeavesIdle. -/
theorem test_witness_ready : State.reset.ready ∧ (withLd .started).ready := by decide

/-- EncodeOfDecode, on either port. -/
theorem test_witness_encode_of_decode :
    decode (.command 0xFF04#16) = .ok (.writeByte 0xFF#8) ∧ decode (.lineOp 0x18#5) = .ok (.hold 3#2) := by decide

/-- HostProgramWords: the edges of its ranges. -/
theorem test_witness_immediates :
    assembleLine (.writeByte 255) = some [0xFF04#16] ∧ assembleLine (.writeByte 256) = none ∧
      assembleLine (.writeAddress 127) = some [0x7F06#16] ∧ assembleLine (.writeAddress 128) = none ∧
      assembleLine (.readAddress 127) = some [0x7F07#16] ∧ assembleLine (.word 65535) = some [0xFFFF#16] := by decide

/-- StepRunsOfferedCommand, AcceptanceOfLegalWord (first clause). -/
theorem test_witness_offered_command :
    (offering [0xFF04#16]).ready ∧ (offering [0xFF04#16]).offers = [0xFF04#16] ∧
      decodeCommand 0xFF04#16 = .ok (.writeByte 0xFF#8) := by decide

/-- AcceptanceOfLegalWord (second clause), OffersDoNotReachRunningCommand, CommandsWaitWhileBusy, StepCounterMovesByOne. -/
theorem test_witness_busy_step :
    (midCommand 0x0001#16 0 .idle).engine.busy = true ∧ (midCommand 0x0001#16 0 .idle).events = [] ∧
      nextIs (step (midCommand 0x0001#16 0 .idle)) (fun t => t.engine.step == 1) ∧ Instr.isCommand .busReset = true := by
  decide

/-- StepRunsMicroStep: a line op with more to follow, and the last line op of each command that writes a result. -/
theorem test_witness_micro_step :
    (midCommand 0x0001#16 0 .idle).template? = some (.dirSda .output) ∧
      nextIs (exec (lineOpOf (.dirSda .output)) (midCommand 0x0001#16 0 .idle)) (fun _ => true) ∧
      (midCommand 0x0004#16 56 (.afterWrite 0#1)).template? = some (.scl 0#1) ∧ (ops 0x0004#16).length = 57 ∧
      (midCommand 0x0005#16 49 .idle).template? = some (.scl 0#1) ∧ (ops 0x0005#16).length = 50 ∧
      (midCommand 0x0006#16 56 (.afterWrite 0#1)).template? = some (.scl 0#1) ∧
      (midCommand 0x0007#16 56 (.afterWrite 1#1)).template? = some (.scl 0#1) ∧
      (midCommand 0x0001#16 3 .idle).template? = some (.scl 1#1) ∧ (ops 0x0001#16).length = 4 ∧
      nextIs (exec (lineOpOf (.scl 0#1)) (midCommand 0x0004#16 56 (.afterWrite 0#1))) (fun _ => true) := by decide

/-- StepRunsOtherAgentsLineOp. -/
theorem test_witness_other_agent :
    ({ withLd .idle with events := [Event.lineOp 0x03#5] } : State).events = Event.lineOp 0x03#5 :: [] ∧
      decodeLineOp 0x03#5 = .ok (.sclLvl 0#1) ∧
      nextIs (step { withLd .idle with events := [.lineOp 0x03#5] }) (fun t => t.ld.sclLvl == 0#1) := by decide

/-- IdleWithoutOfferDoesNothing (second and third clause): the host holds a word back, from an idle and from a busy engine. -/
theorem test_witness_host_idle :
    ({ offering [0x0001#16] with events := [Event.hostIdle] } : State).events = Event.hostIdle :: [] ∧
      nextIs (step { offering [0x0001#16] with events := [.hostIdle] })
        (fun t => t.offers == [0x0001#16] && !t.engine.busy && t.events == []) ∧
      nextIs (step { midCommand 0x0001#16 0 .idle with events := [.hostIdle] }) (fun t => t.engine.step == 1) := by decide

/-- The observation keeps the bit of a GET_SDA and none of another line op (StepRunsMicroStep, R236). -/
theorem test_observation :
    nextIs (step { midCommand 0x0004#16 55 (.afterWrite 0#1) with samples := [1#1] })
        (fun t => t.trace == [{ op := .getSda, sample := some 1#1 }]) ∧
      nextIs (step (midCommand 0x0001#16 0 .idle)) (fun t => t.trace == [{ op := .dirSda .output, sample := none }]) := by
  decide

/-- IllegalWordSetsIllegalOnly, IdleWithoutOfferDoesNothing (first clause). -/
theorem test_witness_illegal_and_idle :
    (offering [0x0000#16, 0x0001#16]).ready ∧ decodeCommand 0x0000#16 = .error .reservedOpcode ∧
      State.reset.offers = [] := by decide

/-- LevelOpsComplete, GetSdaCompletes, RefusedLineOps. -/
theorem test_witness_directions :
    (withLd .idle).ld.sdaDir = .output ∧ State.reset.ld.sdaDir = .input ∧ State.reset.samples = [] ∧
      ({ State.reset with samples := [1#1] } : State).samples = 1#1 :: [] := by decide

/-- DirectionOpsComplete (third clause), EngineEmitsOnlyTableWords. -/
theorem test_witness_line_op_port :
    (midCommand 0x0001#16 1 .idle).lineOp? = some (.dirScl .output) ∧
      (midCommand 0x0001#16 1 .idle).lopWord? = some 0x0A#5 ∧ State.reset.lopWord? = none := by decide

/-- ByteSequencePositions, RecoveryPulseCount: the edges of the index ranges. -/
theorem test_witness_positions :
    (writeSeq 0x80#8)[3]? = some (.sda 1#1) ∧ (writeSeq 0x01#8)[45]? = some (.sda 1#1) ∧
      (readSeq 0#1)[5]? = some .sampleData ∧ (readSeq 0#1)[40]? = some .sampleData ∧ (readSeq 0#1)[45]? = some (.sda 0#1) ∧
      busResetOps[4]? = some (.scl 0#1) ∧ busResetOps[38]? = some (.scl 1#1) := by decide

/-- InvKeptByEveryStep, InvNeverStops, EveryHostProgramEnds: idle with words on offer, at position 0, and in the middle of
a command. -/
theorem test_witness_inv :
    (offering [0x0001#16]).Inv ∧ (offering [0x0001#16]).events = [] ∧
      nextIs (step (offering [0x0001#16])) (fun t => t.engine.busy) ∧
      (midCommand 0x0004#16 0 .idle).Inv ∧ (midCommand 0x0004#16 55 (.afterWrite 0#1)).Inv := by decide

/-- The invariant does not hold of every state: GET_SDA would come next while SDA is an output. -/
theorem test_inv_excludes : ¬ (midCommand 0x0004#16 55 .idle).Inv := by decide

/-- CommandEndsAfterItsList, CommandIssuesExactlyItsList: a command, with its first and last position. -/
theorem test_witness_command :
    Instr.isCommand (.writeByte 0x00#8) = true ∧ State.reset.ready ∧ 0 < (opsOf (.writeByte 0x00#8)).length ∧
      56 < (opsOf (.writeByte 0x00#8)).length := by decide

/-- SamplesNeverChangeTheSequence: two different states that differ only in samples. -/
theorem test_witness_samples :
    ({ State.reset with samples := [0#1] } : State).withoutSamples =
        ({ State.reset with samples := [1#1] } : State).withoutSamples ∧
      ({ State.reset with samples := [0#1] } : State) ≠ { State.reset with samples := [1#1] } := by decide

/-- IdleEngineIssuesNothing. -/
theorem test_witness_idle_exclusive :
    (offering [0x0001#16]).engine.busy = false ∧ (offering [0x0001#16]).exclusive ∧
      nextIs (step (offering [0x0001#16])) (fun t => t.trace == []) := by decide

/-- AckWrittenOnlyByWriteCommands: ACK changes at a completion, and at block reset. -/
theorem test_witness_ack_changes :
    nextIs (step { midCommand 0x0004#16 56 (.afterWrite 0#1) with
        engine := { busy := true, cmd := 0x0004#16, step := 56, shift := 0x00#8, ackBit := 0#1 } })
        (fun t => t.status.ack != State.reset.status.ack) ∧
      nextIs (step { State.reset with status := { Status.reset with ack := 0#1 }, events := [.blockReset false] })
        (fun t => t.status.ack != 0#1) := by decide

/-- RxDataWrittenOnlyByReadByte: RXDATA changes at a completion, and at block reset. -/
theorem test_witness_rx_data_changes :
    nextIs (step { midCommand 0x0005#16 49 .idle with
        engine := { busy := true, cmd := 0x0005#16, step := 49, shift := 0x5A#8, ackBit := 1#1 } })
        (fun t => t.status.rxData != State.reset.status.rxData) ∧
      nextIs (step { State.reset with status := { Status.reset with rxData := 0x5A#8 }, events := [.blockReset true] })
        (fun t => t.status.rxData != 0x5A#8) := by decide

/-- IllegalFollowsLastWordTaken: a word is taken; ILLEGAL rises, falls, and falls at block reset. -/
theorem test_witness_illegal_changes :
    nextIs (step (offering [0x0000#16])) (fun t => t.offers != [0x0000#16]) ∧
    nextIs (step (offering [0x0000#16])) (fun t => t.status.illegal) ∧
      nextIs (step { offering [0x0001#16] with status := { Status.reset with illegal := true } })
        (fun t => !t.status.illegal) ∧
      nextIs (step { State.reset with status := { Status.reset with illegal := true }, events := [.blockReset false] })
        (fun t => !t.status.illegal) := by decide

/-- SclDirectionOnlySetToOutput: the direction changes. -/
theorem test_witness_scl_direction :
    (midCommand 0x0001#16 1 State.reset.ld).exclusive ∧
      nextIs (step (midCommand 0x0001#16 1 State.reset.ld)) (fun t => t.ld.sclDir == .output) := by decide

/-- SdaMovesOnlyWhileSclLow: an SDA op of each kind at a position past 0, in a WRITE_BYTE and a READ_BYTE. -/
theorem test_witness_sda_ops :
    (opsOf (.writeByte 0x00#8))[3]? = some (.sda 0#1) ∧ (opsOf (.writeByte 0x00#8))[50]? = some (.dirSda .input) ∧
      (opsOf (.readByte 1#1))[45]? = some (.sda 1#1) ∧ (opsOf (.readByte 1#1))[42]? = some (.dirSda .output) ∧
      (opsOf (.writeAddress 0#7))[3]? = some (.sda 0#1) ∧ (opsOf (.readAddress 0#7))[45]? = some (.sda 1#1) := by decide

/-- AcknowledgeHeldThroughItsClock: the edges of its range, and the two positions with SCL high. -/
theorem test_witness_ack_positions :
    (opsOf (.readByte 1#1))[47]? = some (.scl 1#1) ∧ (opsOf (.readByte 1#1))[49]? = some (.scl 0#1) ∧ 46 ≤ 46 ∧ 50 ≤ 50 := by
  decide

/-- StartStopConditions, ByteCommandsMakeNoCondition, BusResetConditions: a ready state in each named state. -/
theorem test_witness_named_states :
    (withLd .idle).ready ∧ (withLd .idle).ld = .idle ∧ (withLd .started).ld = .started ∧
      (withLd (.afterWrite 1#1)).ld = .afterWrite 1#1 ∧ (withLd (.afterRead 0#1)).ld = .afterRead 0#1 := by decide

/-- Peers that hold SDA low up to the step `n` and have released it after that step. -/
def releasedAt (n : Nat) : Nat → Bit := fun m => if m ≤ n then 0#1 else 1#1

/-- BusResetConditions: peers that meet its clauses, with a release in the first and in the last pulse; the peers of the two
other clauses put one level on SDA throughout. -/
theorem test_witness_peer_levels :
    releasedAt 7 (7 + 4 * 0) = 0#1 ∧ releasedAt 7 (8 + 4 * 0) = 1#1 ∧ busResetOps[7 + 4 * 0]? = some (.hold .brHigh) ∧
      releasedAt 39 (7 + 4 * 8) = 0#1 ∧ releasedAt 39 (8 + 4 * 8) = 1#1 ∧ busResetOps[7 + 4 * 8]? = some (.hold .brHigh) ∧
      releasedAt 39 45 = 1#1 ∧ releasedAt 39 54 = 1#1 ∧ releasedAt 54 45 = 0#1 ∧ releasedAt 54 54 = 0#1 := by decide

/-- BusConditionsFollowTheBus: a step that moves no latch (a HOLD) with SCL high and the master not driving SDA low. -/
theorem test_witness_latches_still :
    nextIs (step (midCommand 0x0008#16 15 .idle)) (fun t => t.ld == .idle) ∧ LineDriver.idle.busScl = 1#1 ∧
      LineDriver.idle.masterSda = 1#1 := by decide

/-- BlockResetSetsEveryField, BlockResetAdmitsBothOutcomes: idle, and with a line op in flight that takes effect. -/
theorem test_witness_block_reset :
    ({ State.reset with events := [Event.blockReset false] } : State).events = Event.blockReset false :: [] ∧
      ({ midCommand 0x0004#16 19 .idle with events := [Event.blockReset true] } : State).lineOp? = some (.sclLvl 0#1) ∧
      nextIs (exec (.sclLvl 0#1) (midCommand 0x0004#16 19 .idle)) (fun u => u.ld.sclLvl == 0#1) := by decide

/-- StalledLineDriverHoldsEngine: no wait, and two. -/
theorem test_witness_stall :
    ({ midCommand 0x0004#16 19 .idle with events := [Event.stall, Event.stall, Event.run] } : State).events =
        List.replicate 2 Event.stall ++ [Event.run] ∧
      (midCommand 0x0004#16 19 .idle).events = List.replicate 0 Event.stall ++ [] := by decide

end Sys2Proof.Tests
end

section
/-! The START and STOP conditions of the bus view (spec/00_scope.md R13, spec/10_state.md R39). -/

namespace Sys2Proof.Machine

/-- A peer that pulls SDA low holds the bus low, whatever the master drives (R39). -/
@[simp] theorem LineDriver.busSda_peer_low (l : LineDriver) : l.busSda 0#1 = 0#1 := BitVec.and_zero

/-- While the master leaves SDA high, the bus carries the peers' level (R39). -/
theorem LineDriver.busSda_of_masterSda_high {l : LineDriver} (h : l.masterSda = 1#1) (peer : Bit) :
    l.busSda peer = peer := by
  rw [LineDriver.busSda, h]
  exact BitVec.allOnes_and

/-- A START is a fall of bus_sda with bus_scl high before and after (R13). -/
theorem busCondition_eq_start_iff (l l' : LineDriver) (peer peer' : Bit) :
    busCondition l peer l' peer' = some .start ↔
      l.busScl = 1#1 ∧ l'.busScl = 1#1 ∧ l.busSda peer = 1#1 ∧ l'.busSda peer' = 0#1 := by
  unfold busCondition
  split_ifs <;> simp_all

/-- A STOP is a rise of bus_sda with bus_scl high before and after (R13). A rise is no fall, so the test for a START, which
comes first, does not hide it. -/
theorem busCondition_eq_stop_iff (l l' : LineDriver) (peer peer' : Bit) :
    busCondition l peer l' peer' = some .stop ↔
      l.busScl = 1#1 ∧ l'.busScl = 1#1 ∧ l.busSda peer = 0#1 ∧ l'.busSda peer' = 1#1 := by
  unfold busCondition
  split_ifs <;> simp_all

/-- With SCL high and SDA left to the peers, a release by a peer is a STOP and a pull a START (R13, R154). -/
theorem busCondition_of_latches_still {l : LineDriver} (hscl : l.busScl = 1#1) (hsda : l.masterSda = 1#1) :
    busCondition l 0#1 l 1#1 = some .stop ∧ busCondition l 1#1 l 0#1 = some .start := by
  have hbus := LineDriver.busSda_of_masterSda_high hsda
  exact ⟨(busCondition_eq_stop_iff ..).mpr ⟨hscl, hscl, hbus _, hbus _⟩,
    (busCondition_eq_start_iff ..).mpr ⟨hscl, hscl, hbus _, hbus _⟩⟩

/-- A bus on which a peer holds SDA low before and after sees no condition: SDA would have to be high on one side. -/
@[simp] theorem busCondition_peer_low (l l' : LineDriver) : busCondition l 0#1 l' 0#1 = none := by
  simp [busCondition]

/-- A run on which a peer holds SDA low throughout makes no condition. -/
theorem busConditions_peer_low {peer : Nat → Bit} {n p : Nat} (s : State)
    (hlow : ∀ m, p ≤ m → m ≤ p + n → peer m = 0#1) : busConditions peer n p s = [] := by
  induction n generalizing p s with
  | zero => rfl
  | succ n ih =>
    have hbefore : peer p = 0#1 := hlow p (by omega) (by omega)
    have hafter : peer (p + 1) = 0#1 := hlow (p + 1) (by omega) (by omega)
    have hrest (t : State) : busConditions peer n (p + 1) t = [] :=
      ih t fun m hm hm' => hlow m (by omega) (by omega)
    rw [busConditions]
    cases step s <;> simp [hbefore, hafter, hrest]

/-- Settles O60: the two conditions are what `busCondition` reads off the levels, the step is any step of the machine, and
the run is by induction on its length. -/
theorem busConditionsFollowTheBus : Obligations.BusConditionsFollowTheBus := by
  refine ⟨fun s t peer peer' _ => ⟨busCondition_eq_start_iff .., busCondition_eq_stop_iff .., ?_⟩,
    fun _ _ _ s hlow => busConditions_peer_low s hlow⟩
  intro hld hscl hsda
  rw [hld]
  exact busCondition_of_latches_still hscl hsda

end Sys2Proof.Machine
end

section
/-! What a step can do to the status word (spec/10_state.md R26 to R29, R31), to E.STEP (R23) and to the latches of the
Line Driver (R34), and the statements about these fields. -/

namespace Sys2Proof.Machine

/-! ### The command port -/

/-- A command on the port of an idle engine is accepted (R100). -/
theorem exec_command_of_idle {i : Instr} {s : State} (hi : i.isCommand = true) (hb : s.engine.busy = false) :
    ∃ c, exec i s = .next (s.accept c) := by
  have taken (c : Word) : takeCommand c s = .next (s.accept c) := by simp [takeCommand, hb]
  cases i with
  | hold | dirSda | dirScl | sclLvl | sdaLvl | getSda => cases hi
  | configure | start | stop | writeByte | readByte | writeAddress | readAddress | busReset => exact ⟨_, taken _⟩

/-- An idle engine accepts a legal word and notes an illegal one (R100, R101). -/
theorem takeWord_next {c : Word} {s t : State} (h : takeWord c s = .next t) (hb : s.engine.busy = false) :
    (∃ i c', decodeCommand c = .ok i ∧ t = s.accept c') ∨ (∃ e, decodeCommand c = .error e ∧ t = s.takeIllegal) := by
  rcases takeWord_cases c s with ⟨i, hi, hw⟩ | ⟨e, he, hw⟩
  · obtain ⟨c', hc⟩ := exec_command_of_idle (decodeCommand_isCommand hi) hb
    exact .inl ⟨i, c', hi, by simpa [hw, hc] using h.symm⟩
  · exact .inr ⟨e, he, by simpa [hw] using h.symm⟩

/-- Taking a word writes STATUS.ILLEGAL, with whether the word is illegal, and no other field of the status word (R29). -/
theorem takeWord_status {c : Word} {s t : State} (h : takeWord c s = .next t) (hb : s.engine.busy = false) :
    t.offers = s.offers ∧ ∃ v, t.status = { s.status with illegal := v } ∧ (v = true ↔ ∃ e, decodeCommand c = .error e) := by
  rcases takeWord_next h hb with ⟨i, c', hi, rfl⟩ | ⟨e, he, rfl⟩
  · exact ⟨rfl, false, rfl, by simp [hi]⟩
  · exact ⟨rfl, true, rfl, by simp [he]⟩

/-- Taking a word moves no latch: its acceptance issues no line op (R100, R101). -/
theorem takeWord_ld {c : Word} {s t : State} (h : takeWord c s = .next t) (hb : s.engine.busy = false) : t.ld = s.ld := by
  rcases takeWord_next h hb with ⟨_, _, -, rfl⟩ | ⟨_, -, rfl⟩ <;> rfl

/-! ### Completion -/

/-- `t` is left by the completion of the command in E.CMD of `s`: over the status word of `s` the command's result is
written, from the engine's registers as the last line op leaves them, and BUSY is 0 (R105). -/
def State.CompletesTo (s t : State) : Prop :=
  ∃ (u : State) (i : Instr), decodeCommand s.engine.cmd = .ok i ∧ u.status = s.status ∧ t = (u.writeResult i).clearBusy

/-- Retiring a line op leaves the status word as it was, unless the line op is the last and completes the
command (R105). -/
theorem State.retire_status (s : State) (p : Template) :
    (s.retire p).status = s.status ∨ s.CompletesTo (s.retire p) := by
  unfold State.retire
  simp only
  split
  · unfold State.complete
    split
    · rename_i i hi
      exact .inr ⟨_, i, by simpa using hi, by simp, rfl⟩
    · exact .inl (by simp)
  · exact .inl (by simp)

/-- The commands whose completion writes STATUS.ACK, and with what (R27, R105). -/
theorem State.writeResult_status_ack (s : State) (i : Instr) :
    (s.writeResult i).status.ack = s.status.ack ∨
      ((s.writeResult i).status.ack = s.engine.ackBit ∧
        ((∃ b, i = .writeByte b) ∨ (∃ a, i = .writeAddress a) ∨ (∃ a, i = .readAddress a))) := by
  cases i with
  | writeByte b => exact .inr ⟨rfl, .inl ⟨b, rfl⟩⟩
  | writeAddress a => exact .inr ⟨rfl, .inr (.inl ⟨a, rfl⟩)⟩
  | readAddress a => exact .inr ⟨rfl, .inr (.inr ⟨a, rfl⟩)⟩
  | configure | start | stop | readByte | busReset | hold | dirSda | dirScl | sclLvl | sdaLvl | getSda => exact .inl rfl

/-- The one command whose completion writes STATUS.RXDATA, and with what (R28, R105). -/
theorem State.writeResult_status_rxData (s : State) (i : Instr) :
    (s.writeResult i).status.rxData = s.status.rxData ∨
      ((s.writeResult i).status.rxData = s.engine.shift ∧ ∃ k, i = .readByte k) := by
  cases i with
  | readByte k => exact .inr ⟨rfl, k, rfl⟩
  | configure | start | stop | writeByte | writeAddress | readAddress | busReset | hold | dirSda | dirScl | sclLvl
  | sdaLvl | getSda => exact .inl rfl

/-! ### Steps without the command port -/

/-- The line op in flight takes effect as a line op of the Line Driver, or nothing happens (R221). -/
theorem State.finishInFlight_cases (s : State) :
    s.finishInFlight = s ∨
      ∃ p, s.template? = some p ∧ exec (lineOpOf p) s = .next s.finishInFlight := by
  cases hi : s.lineOp? with
  | none => exact .inl (by simp [State.finishInFlight, hi])
  | some i =>
    obtain ⟨-, p, hp, rfl⟩ : s.engine.busy = true ∧ ∃ p, s.template? = some p ∧ lineOpOf p = i := by
      simpa [State.lineOp?] using hi
    cases hx : exec (lineOpOf p) s with
    | next u => exact .inr ⟨p, hp, by simp [State.finishInFlight, hi, hx]⟩
    | fault | refused => exact .inl (by simp [State.finishInFlight, hi, hx])

/-- Finishing the line op in flight takes no word of the host. -/
@[simp] theorem State.finishInFlight_offers (s : State) : s.finishInFlight.offers = s.offers := by
  rcases s.finishInFlight_cases with h | ⟨p, -, h⟩
  · rw [h]
  · obtain ⟨-, -, ho, -, -⟩ := exec_lineOp_frame (lineOpOf_isCommand p) h
    exact ho

/-- Block reset sets the status word to its reset value and takes no word of the host (R220). -/
theorem blockResetStep_status {done : Bool} {s t : State} (h : blockResetStep done s = .next t) :
    t.status = .reset ∧ t.offers = s.offers := by
  cases done <;> cases h <;> simp

/-- Another agent's line op reaches neither the status word nor the host's words (R69). -/
theorem lineOpStep_status {w : LopWord} {s t : State} (h : lineOpStep w s = .next t) :
    t.status = s.status ∧ t.offers = s.offers := by
  unfold lineOpStep at h
  split at h
  · rename_i i hi
    obtain ⟨-, hs, ho, -, -⟩ := exec_lineOp_frame (decodeLineOp_isLineOp hi) h
    exact ⟨hs, ho⟩
  · cases h

/-- A micro-step takes no word of the host; it leaves the status word as it was, unless it completes the command
(R103, R105). -/
theorem microStep_status {s t : State} (h : microStep s = .next t) :
    t.offers = s.offers ∧ (t.status = s.status ∨ s.CompletesTo t) := by
  obtain ⟨p, u, -, hu, rfl⟩ := microStep_next h
  obtain ⟨he, hs, ho, -, -⟩ := exec_lineOp_frame (lineOpOf_isCommand p) hu
  obtain ⟨-, -, -, hro, -⟩ := u.retire_frame p
  exact ⟨hro.trans ho, by simpa only [State.CompletesTo, he, hs] using u.retire_status p⟩

/-! ### The status word along a step -/

/-- All that a step can do to the status word: block reset resets it, the taking of a word says in ILLEGAL whether the word
is illegal, a completion writes the command's result, and every other step leaves it as it was. Only the second takes a word
of the host (R26 to R29). -/
theorem step_status {s t : State} (h : step s = .next t) :
    (∃ done es, s.events = .blockReset done :: es ∧ t.status = .reset ∧ t.offers = s.offers) ∨
      (s.engine.busy = false ∧ ∃ c cs v, s.offers = c :: cs ∧ t.offers = cs ∧ t.status = { s.status with illegal := v } ∧
        (v = true ↔ ∃ e, decodeCommand c = .error e)) ∨
      (s.engine.busy = true ∧ t.offers = s.offers ∧ s.CompletesTo t) ∨
      (t.status = s.status ∧ t.offers = s.offers) := by
  rcases step_cases h with ⟨done, es, he, hr⟩ | ⟨w, es, -, hl⟩ | ⟨-, rfl⟩ | ⟨-, rfl⟩ | ⟨hb, c, cs, hc, ht⟩ | ⟨hb, hm⟩
  · have hreset := blockResetStep_status hr
    exact .inl ⟨done, es, he, hreset⟩
  · have hkept := lineOpStep_status hl
    exact .inr (.inr (.inr hkept))
  · exact .inr (.inr (.inr ⟨rfl, rfl⟩))
  · exact .inr (.inr (.inr ⟨rfl, rfl⟩))
  · obtain ⟨ho, v, hs, hv⟩ := takeWord_status ht hb
    exact .inr (.inl ⟨hb, c, cs, v, hc, ho, hs, hv⟩)
  · obtain ⟨ho, hs | hw⟩ := microStep_status hm
    · exact .inr (.inr (.inr ⟨hs, ho⟩))
    · exact .inr (.inr (.inl ⟨hb, ho, hw⟩))

/-- Settles O43: of the four things a step can do to the status word, block reset and the completion of a write command are
the two that reach ACK. -/
theorem ackWrittenOnlyByWriteCommands : Obligations.AckWrittenOnlyByWriteCommands := by
  intro s t h hne
  rcases step_status h with ⟨done, es, he, hs, -⟩ | ⟨-, _, _, _, -, -, hs, -⟩ | ⟨hb, -, u, i, hi, hu, rfl⟩ | ⟨hs, -⟩
  · exact .inl ⟨done, es, he, by rw [hs]; rfl⟩
  · exact absurd (by rw [hs]) hne
  · rcases u.writeResult_status_ack i with hk | ⟨ha, hw⟩
    · exact absurd (by simp [hk, hu]) hne
    · exact .inr ⟨hb, rfl, by simpa using ha, by simpa [hi] using hw⟩
  · exact absurd (by rw [hs]) hne

/-- Settles O44: of the four things a step can do to the status word, block reset and the completion of a READ_BYTE are the
two that reach RXDATA. -/
theorem rxDataWrittenOnlyByReadByte : Obligations.RxDataWrittenOnlyByReadByte := by
  intro s t h hne
  rcases step_status h with ⟨done, es, he, hs, -⟩ | ⟨-, _, _, _, -, -, hs, -⟩ | ⟨hb, -, u, i, hi, hu, rfl⟩ | ⟨hs, -⟩
  · exact .inl ⟨done, es, he, by rw [hs]; rfl⟩
  · exact absurd (by rw [hs]) hne
  · rcases u.writeResult_status_rxData i with hk | ⟨hr, hw⟩
    · exact absurd (by simp [hk, hu]) hne
    · exact .inr ⟨hb, rfl, by simpa using hr, by simpa [hi] using hw⟩
  · exact absurd (by rw [hs]) hne

/-- Settles O45: of the four things a step can do to the status word, the taking of a word is the only one that moves the
host's words, and it and block reset are the two that reach ILLEGAL. -/
theorem illegalFollowsLastWordTaken : Obligations.IllegalFollowsLastWordTaken := by
  intro s t h
  rcases step_status h with ⟨done, es, he, hs, ho⟩ | ⟨hb, c, cs, v, hc, ho, hs, hv⟩ | ⟨-, ho, u, i, -, hu, rfl⟩ | ⟨hs, ho⟩
  · exact ⟨absurd ho, fun _ => .inl ⟨done, es, he, by rw [hs]; rfl⟩⟩
  · have taken : s.engine.busy = false ∧ ∃ c cs, s.offers = c :: cs ∧ t.offers = cs ∧
        (t.status.illegal = true ↔ ∃ e, decodeCommand c = .error e) := ⟨hb, c, cs, hc, ho, by rw [hs]; exact hv⟩
    exact ⟨fun _ => taken, fun _ => .inr taken⟩
  · exact ⟨absurd ho, absurd (by simp [hu])⟩
  · exact ⟨absurd ho, absurd (by rw [hs])⟩

/-- Settles O58: STATUS is its fields one after the other, so each is read off the concatenation by skipping the fields
below it. -/
theorem statusWordLayout : Obligations.StatusWordLayout := by
  intro s
  unfold State.statusWord
  refine ⟨?busy, ?ack, ?illegal, ?reserved, ?rxData⟩
  case busy =>
    rw [BitVec.getLsbD_append]
    simp
  case ack =>
    rw [BitVec.extractLsb'_append_eq_of_le (by omega), BitVec.extractLsb'_append_eq_right]
  case illegal =>
    rw [BitVec.getLsbD_append, BitVec.getLsbD_append, BitVec.getLsbD_append]
    simp
  case reserved =>
    rw [BitVec.extractLsb'_append_eq_of_le (by omega), BitVec.extractLsb'_append_eq_of_le (by omega),
      BitVec.extractLsb'_append_eq_of_le (by omega), BitVec.extractLsb'_append_eq_right]
  case rxData =>
    rw [BitVec.extractLsb'_append_eq_of_le (by omega), BitVec.extractLsb'_append_eq_of_le (by omega),
      BitVec.extractLsb'_append_eq_of_le (by omega), BitVec.extractLsb'_append_eq_left]

/-! ### E.STEP -/

/-- A micro-step of a busy engine adds 1 to E.STEP, keeps E.CMD, and ends the command exactly at the length of its list
(R23, R103). -/
theorem microStep_counter {s t : State} (hb : s.engine.busy = true) (h : microStep s = .next t) :
    t.engine.step = s.engine.step + 1 ∧ t.engine.cmd = s.engine.cmd ∧
      (t.engine.busy = false ↔ t.engine.step = (ops s.engine.cmd).length) := by
  obtain ⟨p, u, -, hu, rfl⟩ := microStep_next h
  obtain ⟨he, -, -, -, -⟩ := exec_lineOp_frame (lineOpOf_isCommand p) hu
  obtain ⟨hcmd, hstep, -⟩ := u.retire_frame p
  have hbusy := u.retire_busy p
  rw [he] at hcmd hstep hbusy
  exact ⟨hstep, hcmd, by rw [hbusy, hstep]; simp [hb]⟩

/-- Settles O46: with nothing from outside a step of a busy engine is a micro-step. -/
theorem stepCounterMovesByOne : Obligations.StepCounterMovesByOne := by
  intro s t hb he h
  rw [step_busy hb he] at h
  exact microStep_counter hb h

/-! ### SCL's direction -/

/-- A template that the Line Driver performs moves the latches as `LineDriver.after` says (R52 to R57). -/
theorem exec_lineOpOf_ld {p : Template} {s u : State} (h : exec (lineOpOf p) s = .next u) : u.ld = s.ld.after p := by
  cases p with
  | hold | dirSda | dirScl | scl => cases h; rfl
  | sda v => obtain ⟨-, rfl⟩ := execSdaLvl_next h; rfl
  | sampleData | sampleAck => obtain ⟨-, rfl⟩ := execGetSda_next h; exact State.sampleSda_ld s

/-- Block reset moves no latch but by the line op in flight, if that took effect (R221, R222). -/
theorem blockResetStep_ld {done : Bool} {s t : State} (h : blockResetStep done s = .next t) :
    t.ld = s.ld ∨ ∃ p, s.template? = some p ∧ t.ld = s.ld.after p := by
  cases done with
  | false =>
    obtain rfl : s.resetEngine = t := by simpa [blockResetStep] using h
    exact .inl rfl
  | true =>
    obtain rfl : s.finishInFlight.resetEngine = t := by simpa [blockResetStep] using h
    rw [State.resetEngine_ld]
    rcases s.finishInFlight_cases with hf | ⟨p, hp, hf⟩
    · exact .inl (by rw [hf])
    · exact .inr ⟨p, hp, exec_lineOpOf_ld hf⟩

/-- With the Line Driver exclusive, the latches move only by the line op the engine has in flight, be it performed in a
micro-step or finished under block reset (R60, R103, R221). -/
theorem step_ld {s t : State} (hx : s.exclusive) (h : step s = .next t) :
    t.ld = s.ld ∨ ∃ p, s.template? = some p ∧ t.ld = s.ld.after p := by
  rcases step_cases h with ⟨done, es, -, hr⟩ | ⟨w, es, he, -⟩ | ⟨-, rfl⟩ | ⟨-, rfl⟩ | ⟨hb, c, cs, -, ht⟩ | ⟨-, hm⟩
  · have hld := blockResetStep_ld hr
    exact hld
  · simp [he, Event.isLineOp] at hx
  · exact .inl rfl
  · exact .inl rfl
  · have hld := takeWord_ld ht hb
    exact .inl hld
  · obtain ⟨p, u, hp, hu, rfl⟩ := microStep_next hm
    obtain ⟨-, -, hretire, -⟩ := u.retire_frame p
    have hld := exec_lineOpOf_ld hu
    exact .inr ⟨p, hp, hretire.trans hld⟩

/-- No command's list sets SCL to an input (R54). -/
theorem dirScl_input_not_mem_opsOf (i : Instr) : .dirScl .input ∉ opsOf i := by
  cases i <;>
    simp [opsOf, configureOps, startOps, stopOps, writeAddressOps, readAddressOps, writeSeq, readSeq, busResetOps, setDir,
      bitsOut, bitOut, endOfBits, recvAck, repeatOps, bitIn, sendAck, linesHigh, pulse]

/-- The template a micro-step performs never sets SCL to an input, whatever E.CMD and E.STEP hold (R54). -/
theorem State.template?_ne_dirScl_input {s : State} {p : Template} (h : s.template? = some p) : p ≠ .dirScl .input := by
  rintro rfl
  have hmem : .dirScl .input ∈ ops s.engine.cmd := List.mem_of_getElem? h
  unfold ops at hmem
  split at hmem
  · exact dirScl_input_not_mem_opsOf _ hmem
  · cases hmem

/-- Only a DIR_SCL moves SCL's direction, so a template other than DIR_SCL(IN) keeps it or leaves it OUT (R54). -/
theorem LineDriver.after_sclDir (l : LineDriver) {p : Template} (hp : p ≠ .dirScl .input) :
    (l.after p).sclDir = l.sclDir ∨ (l.after p).sclDir = .output := by
  cases p with
  | dirScl d =>
    cases d with
    | input => exact absurd rfl hp
    | output => exact .inr rfl
  | hold | dirSda | scl | sda | sampleData | sampleAck => exact .inl rfl

/-- Settles O47: the latches move only by a template of a command's list, and none of these is DIR_SCL(IN). -/
theorem sclDirectionOnlySetToOutput : Obligations.SclDirectionOnlySetToOutput := by
  intro s t hx h
  rcases step_ld hx h with hld | ⟨p, hp, hld⟩
  · exact .inl (by rw [hld])
  · rw [hld]
    exact s.ld.after_sclDir (State.template?_ne_dirScl_input hp)

end Sys2Proof.Machine
end

section
/-! A step by the event it has: an equation for each state of the queue of events (spec/40_sequencer.md R111,
spec/60_exceptions.md R204). -/

namespace Sys2Proof.Machine

/-- What a step does when the event `e` is the next from the outside (R111, R204). -/
def stepUnder : Event → State → Result
  | .run => engineStep
  | .hostIdle => hostIdleStep
  | .stall => stallStep
  | .blockReset done => blockResetStep done
  | .lineOp w => lineOpStep w

theorem step_of_nil {s : State} (he : s.events = []) : step s = engineStep s := by simp [step, cycle, he]

theorem step_of_cons {s : State} {e : Event} {es : List Event} (he : s.events = e :: es) :
    step s = stepUnder e { s with events := es } := by
  cases e <;> simp [step, cycle, he, stepUnder]

end Sys2Proof.Machine
end

section
/-! The line ops the Line Driver performs (spec/20_memory.md R52 to R57), on the engine's line-op port and for another
agent. -/

namespace Sys2Proof.Machine

/-! ### What a line op answers -/

/-- SDA_LVL writes its latch while SDA is an output (R56). -/
theorem exec_sdaLvl_of_output {s : State} (v : Bit) (hd : s.ld.sdaDir = .output) :
    exec (.sdaLvl v) s = .next (s.setSdaLvl v) := by
  simp [exec, execSdaLvl, hd]

/-- GET_SDA draws a bit while SDA is an input (R57). -/
theorem exec_getSda_of_input {s : State} (hd : s.ld.sdaDir = .input) : exec .getSda s = .next s.sampleSda := by
  simp [exec, execGetSda, hd]

/-- The bit drawn is the next listed one, which is taken off the list (R38). -/
theorem State.sampleSda_of_cons {s : State} {b : Bit} {bs : List Bit} (hs : s.samples = b :: bs) :
    s.sampleSda = { s with lopSda := b, samples := bs } := by
  simp [sampleSda, nextSample, dropSample, hs]

/-- With no bit listed, the bit drawn is a free one and the next draw is another (R38). -/
theorem State.sampleSda_of_nil {s : State} (hs : s.samples = []) :
    s.sampleSda = { s with lopSda := Config.sampledBit s.draws, draws := s.draws + 1 } := by
  simp [sampleSda, nextSample, dropSample, hs]

/-- Settles O24: the Line Driver has no clock, so a HOLD leaves nothing behind. -/
theorem holdCompletes : Obligations.HoldCompletes := fun _ _ => rfl

/-- Settles O26: SCL_LVL writes its latch in any state, SDA_LVL where SDA's direction allows it. -/
theorem levelOpsComplete : Obligations.LevelOpsComplete :=
  ⟨fun _ _ => rfl, fun v _ hd => exec_sdaLvl_of_output v hd⟩

/-- Settles O27: GET_SDA draws a bit, which is a listed one or a free one. -/
theorem getSdaCompletes : Obligations.GetSdaCompletes :=
  ⟨fun _ _ _ hd hs => by rw [exec_getSda_of_input hd, State.sampleSda_of_cons hs],
    fun _ hd hs => by rw [exec_getSda_of_input hd, State.sampleSda_of_nil hs]⟩

/-! ### The line-op port -/

/-- The line-op port carries the line op of the template in turn, and only while BUSY = 1 (R78). -/
theorem State.lineOp?_eq_some_iff {s : State} {i : Instr} :
    s.lineOp? = some i ↔ s.engine.busy = true ∧ ∃ p, s.template? = some p ∧ lineOpOf p = i := by
  simp [lineOp?]

/-- The engine puts no DIR_SCL(IN) on the line-op port, since no template is one (R54). -/
theorem State.lineOp?_ne_dirScl_input (s : State) : s.lineOp? ≠ some (.dirScl .input) := by
  intro h
  obtain ⟨-, p, hp, hi⟩ := State.lineOp?_eq_some_iff.mp h
  refine State.template?_ne_dirScl_input hp ?_
  cases p with
  | dirScl d => simpa [lineOpOf] using hi
  | hold | dirSda | scl | sda | sampleData | sampleAck => simp [lineOpOf] at hi

/-- Settles O25: each direction op is its own latch's update, and of the two DIR_SCLs the engine issues only OUT. -/
theorem directionOpsComplete : Obligations.DirectionOpsComplete := by
  refine ⟨fun _ _ => rfl, fun _ _ => rfl, fun s d h => ?_⟩
  cases d with
  | output => rfl
  | input => exact absurd h s.lineOp?_ne_dirScl_input

/-! ### Another agent -/

/-- Settles O10: the step is the line op, and a line op reaches neither the engine nor the host's words (R51). -/
theorem stepRunsOtherAgentsLineOp : Obligations.StepRunsOtherAgentsLineOp := by
  intro s w es i he hw
  have hstep : step s = exec i { s with events := es } := by simp [step_of_cons he, stepUnder, lineOpStep, hw]
  refine ⟨hstep, fun t ht => ?_⟩
  rw [hstep] at ht
  obtain ⟨hengine, hstatus, hoffers, hevents, htrace⟩ := exec_lineOp_frame (decodeLineOp_isLineOp hw) ht
  exact ⟨hengine, hstatus, hoffers, htrace, hevents⟩

end Sys2Proof.Machine
end

section
/-! An idle engine issues no line op (spec/20_memory.md R60, spec/40_sequencer.md R101). -/

namespace Sys2Proof.Machine

/-- With BUSY = 0 no line op is in flight, so block reset finishes none (R78, R221). -/
theorem State.finishInFlight_of_idle {s : State} (hb : s.engine.busy = false) : s.finishInFlight = s := by
  simp [finishInFlight, lineOp?, hb]

/-- Block reset of an idle engine resets the engine and the status word alone, whatever it says of a line op in flight
(R220, R221). -/
theorem blockResetStep_of_idle (done : Bool) {s : State} (hb : s.engine.busy = false) :
    blockResetStep done s = .next s.resetEngine := by
  simp [blockResetStep, State.finishInFlight_of_idle hb]

/-- Settles O42: of what a step can do, an idle engine with an exclusive Line Driver is left with block reset, waiting and
the taking of a word, and none of these reaches the Line Driver, the samples or the observation. -/
theorem idleEngineIssuesNothing : Obligations.IdleEngineIssuesNothing := by
  intro s t hb hx h
  rcases step_cases h with ⟨done, es, -, hr⟩ | ⟨w, es, he, -⟩ | ⟨-, rfl⟩ | ⟨-, rfl⟩ | ⟨-, c, cs, -, ht⟩ | ⟨hbusy, -⟩
  · obtain rfl : s.popEvent.resetEngine = t := by simpa [blockResetStep_of_idle (s := s.popEvent) done hb] using hr
    exact ⟨rfl, rfl, rfl, rfl, rfl⟩
  · simp [he, Event.isLineOp] at hx
  · exact ⟨rfl, rfl, rfl, rfl, rfl⟩
  · exact ⟨rfl, rfl, rfl, rfl, rfl⟩
  · rcases takeWord_next ht hb with ⟨_, _, -, rfl⟩ | ⟨_, -, rfl⟩ <;> exact ⟨rfl, rfl, rfl, rfl, rfl⟩
  · simp [hb] at hbusy

end Sys2Proof.Machine
end

section
/-! The words of the commands decode to them (spec/30_encoding.md R72, R73): every word with an operand is a byte over an
opcode byte, and each field is cut out of one of the two. -/

namespace Sys2Proof

@[simp] theorem opField_append (d low : Byte) : opField (d ++ low) = low.extractLsb' 0 4 :=
  BitVec.extractLsb'_append_eq_of_add_le (by omega)

@[simp] theorem ackSelField_append (d low : Byte) : ackSelField (d ++ low) = low.extractLsb' 4 1 :=
  BitVec.extractLsb'_append_eq_of_add_le (by omega)

@[simp] theorem rsvField_append (d low : Byte) : rsvField (d ++ low) = low.extractLsb' 5 3 :=
  BitVec.extractLsb'_append_eq_of_add_le (by omega)

@[simp] theorem dataField_append (d low : Byte) : dataField (d ++ low) = d := BitVec.extractLsb'_append_eq_left

@[simp] theorem addressField_append (a : Address) (low : Byte) : addressField (0#1 ++ a ++ low) = a := by
  have h : addressField (0#1 ++ a ++ low) = (0#1 ++ a).extractLsb' 0 7 := BitVec.extractLsb'_append_eq_of_le (by omega)
  rw [h, BitVec.extractLsb'_append_eq_right]

@[simp] theorem dataTopField_append (a : Address) (low : Byte) : dataTopField (0#1 ++ a ++ low) = 0#1 := by
  have h : dataTopField (0#1 ++ a ++ low) = (0#1 ++ a).extractLsb' 7 1 := BitVec.extractLsb'_append_eq_of_le (by omega)
  rw [h, BitVec.extractLsb'_append_eq_left]

theorem decodeCommand_wordWriteByte (b : Byte) : decodeCommand (wordWriteByte b) = .ok (.writeByte b) := by
  simp [decodeCommand, decodeByteOperand, wordWriteByte]

theorem decodeCommand_wordReadByte (k : Bit) : decodeCommand (wordReadByte k) = .ok (.readByte k) := by
  revert k; decide

theorem decodeCommand_wordWriteAddress (a : Address) : decodeCommand (wordWriteAddress a) = .ok (.writeAddress a) := by
  simp [decodeCommand, decodeAddressOperand, wordWriteAddress]

theorem decodeCommand_wordReadAddress (a : Address) : decodeCommand (wordReadAddress a) = .ok (.readAddress a) := by
  simp [decodeCommand, decodeAddressOperand, wordReadAddress]

end Sys2Proof
end

section
/-! A command issues exactly the line ops of its list (spec/20_memory.md R59, spec/40_sequencer.md R102, R103). -/

namespace Sys2Proof.Machine

/-- An idle engine accepts a command under a word that decodes to it, so that E.CMD names the command's list
(R72, R100, R102). -/
theorem exec_command_accepts {i : Instr} {s : State} (hi : i.isCommand = true) (hb : s.engine.busy = false) :
    ∃ c, decodeCommand c = .ok i ∧ exec i s = .next (s.accept c) := by
  have taken (c : Word) : takeCommand c s = .next (s.accept c) := by simp [takeCommand, hb]
  cases i with
  | hold | dirSda | dirScl | sclLvl | sdaLvl | getSda => cases hi
  | configure | start | stop | busReset => exact ⟨_, by decide, taken _⟩
  | writeByte b => exact ⟨_, decodeCommand_wordWriteByte b, taken _⟩
  | readByte k => exact ⟨_, decodeCommand_wordReadByte k, taken _⟩
  | writeAddress a => exact ⟨_, decodeCommand_wordWriteAddress a, taken _⟩
  | readAddress a => exact ⟨_, decodeCommand_wordReadAddress a, taken _⟩

/-- Every command has a line op (R102). -/
theorem opsOf_ne_nil {i : Instr} (hi : i.isCommand = true) : opsOf i ≠ [] := by
  cases i with
  | hold | dirSda | dirScl | sclLvl | sdaLvl | getSda => cases hi
  | configure | start | stop | writeByte | readByte | writeAddress | readAddress | busReset => exact List.cons_ne_nil _ _

/-- Acceptance issues no line op (R100). -/
@[simp] theorem State.accept_issuedOps (s : State) (c : Word) : (s.accept c).issuedOps = s.issuedOps := rfl

/-- Clearing BUSY issues no line op (R105). -/
@[simp] theorem State.clearBusy_issuedOps (s : State) : s.clearBusy.issuedOps = s.issuedOps := rfl

/-- Writing a command's result issues no line op (R105). -/
@[simp] theorem State.writeResult_issuedOps (s : State) (i : Instr) : (s.writeResult i).issuedOps = s.issuedOps := by
  simp [issuedOps]

/-- Settles O39: while line ops are left the run is part of the command's, with none left it is the whole of it, and the
templates performed are the line ops issued. -/
theorem commandIssuesExactlyItsList : Obligations.CommandIssuesExactlyItsList := by
  intro i s n hi ⟨hb, he⟩ hn
  obtain ⟨c, hc, haccept⟩ := exec_command_accepts hi hb
  rcases Nat.lt_or_eq_of_le hn with hlt | rfl
  · exact ⟨_, _, haccept, run_command_part he hc hlt, by simp [foldl_performed_issuedOps, lineOpsOf]⟩
  · exact ⟨_, _, haccept, run_command he hc (opsOf_ne_nil hi), by
      simp [foldl_performed_issuedOps, lineOpsOf, ← List.map_take]⟩

end Sys2Proof.Machine
end

section
/-! The words on offer do not reach a running command (spec/20_memory.md R67): every operation of a step but the taking of a
word commutes with `State.withProgram`, which puts other words on offer. -/

namespace Sys2Proof.Machine

/-- The outcome with an update made to the next state, if there is one. -/
def mapNext (f : State → State) : Result → Result
  | .next t => .next (f t)
  | .fault r => .fault r
  | .refused r => .refused r

@[simp] theorem State.withProgram_engine (s : State) (cs : List Word) : (s.withProgram cs).engine = s.engine := rfl
@[simp] theorem State.withProgram_ld (s : State) (cs : List Word) : (s.withProgram cs).ld = s.ld := rfl
@[simp] theorem State.withProgram_events (s : State) (cs : List Word) : (s.withProgram cs).events = s.events := rfl
@[simp] theorem State.withProgram_template? (s : State) (cs : List Word) : (s.withProgram cs).template? = s.template? := rfl
@[simp] theorem State.withProgram_lineOp? (s : State) (cs : List Word) : (s.withProgram cs).lineOp? = s.lineOp? := rfl

theorem State.sampleSda_withProgram (s : State) (cs : List Word) :
    (s.withProgram cs).sampleSda = s.sampleSda.withProgram cs := by
  cases hs : s.samples with
  | nil => rw [sampleSda_of_nil hs, sampleSda_of_nil (s := s.withProgram cs) hs]; rfl
  | cons b bs => rw [sampleSda_of_cons hs, sampleSda_of_cons (s := s.withProgram cs) hs]; rfl

/-- No meaning reads the words on offer: a command word is taken by what BUSY says, a line op by SDA's direction. -/
theorem exec_withProgram (i : Instr) (s : State) (cs : List Word) :
    exec i (s.withProgram cs) = mapNext (·.withProgram cs) (exec i s) := by
  have command (c : Word) : takeCommand c (s.withProgram cs) = mapNext (·.withProgram cs) (takeCommand c s) := by
    unfold takeCommand
    rw [State.withProgram_engine]
    split <;> rfl
  cases i with
  | configure | start | stop | writeByte | readByte | writeAddress | readAddress | busReset => exact command _
  | hold | dirSda | dirScl | sclLvl => rfl
  | sdaLvl v =>
    simp only [exec, execSdaLvl, State.withProgram_ld]
    cases s.ld.sdaDir <;> rfl
  | getSda =>
    simp only [exec, execGetSda, State.withProgram_ld, State.sampleSda_withProgram]
    cases s.ld.sdaDir <;> rfl

theorem State.complete_withProgram (s : State) (cs : List Word) :
    (s.withProgram cs).complete = s.complete.withProgram cs := by
  cases hd : decodeCommand s.engine.cmd with
  | ok i =>
    rw [complete_of_decode hd, complete_of_decode (s := s.withProgram cs) hd]
    cases i <;> rfl
  | error e => simp only [complete, withProgram_engine, hd]; rfl

theorem State.retire_withProgram (s : State) (p : Template) (cs : List Word) :
    (s.withProgram cs).retire p = (s.retire p).withProgram cs := by
  have hroute : (((s.withProgram cs).record p).route p).advance = ((s.record p).route p).advance.withProgram cs := by
    cases p <;> rfl
  simp only [retire, hroute, withProgram_engine, complete_withProgram]
  split <;> rfl

theorem microStep_withProgram (s : State) (cs : List Word) :
    microStep (s.withProgram cs) = mapNext (·.withProgram cs) (microStep s) := by
  cases hp : s.template? with
  | none => simp [microStep, hp, mapNext]
  | some p =>
    simp only [microStep, State.withProgram_template?, hp, exec_withProgram]
    cases exec (lineOpOf p) s with
    | next u => simp only [mapNext, State.retire_withProgram]
    | fault | refused => rfl

theorem State.finishInFlight_withProgram (s : State) (cs : List Word) :
    (s.withProgram cs).finishInFlight = s.finishInFlight.withProgram cs := by
  cases hi : s.lineOp? with
  | none => simp [finishInFlight, hi]
  | some i =>
    simp only [finishInFlight, withProgram_lineOp?, hi, exec_withProgram]
    cases exec i s <;> rfl

theorem blockResetStep_withProgram (done : Bool) (s : State) (cs : List Word) :
    blockResetStep done (s.withProgram cs) = mapNext (·.withProgram cs) (blockResetStep done s) := by
  cases done with
  | false => rfl
  | true => simp only [blockResetStep, State.finishInFlight_withProgram]; rfl

theorem lineOpStep_withProgram (w : LopWord) (s : State) (cs : List Word) :
    lineOpStep w (s.withProgram cs) = mapNext (·.withProgram cs) (lineOpStep w s) := by
  unfold lineOpStep
  cases decodeLineOp w with
  | ok i => exact exec_withProgram i s cs
  | error e => rfl

/-! Of the steps that look at the command port, none does while BUSY = 1 (R111). -/

theorem engineStep_withProgram {s : State} (hb : s.engine.busy = true) (cs : List Word) :
    engineStep (s.withProgram cs) = mapNext (·.withProgram cs) (engineStep s) := by
  simpa [engineStep, hb] using microStep_withProgram s cs

theorem hostIdleStep_withProgram {s : State} (hb : s.engine.busy = true) (cs : List Word) :
    hostIdleStep (s.withProgram cs) = mapNext (·.withProgram cs) (hostIdleStep s) := by
  simpa [hostIdleStep, hb] using microStep_withProgram s cs

theorem stallStep_withProgram {s : State} (hb : s.engine.busy = true) (cs : List Word) :
    stallStep (s.withProgram cs) = mapNext (·.withProgram cs) (stallStep s) := by
  simp [stallStep, hb, mapNext]

theorem stepUnder_withProgram (e : Event) {s : State} (hb : s.engine.busy = true) (cs : List Word) :
    stepUnder e (s.withProgram cs) = mapNext (·.withProgram cs) (stepUnder e s) := by
  cases e with
  | run => exact engineStep_withProgram hb cs
  | hostIdle => exact hostIdleStep_withProgram hb cs
  | stall => exact stallStep_withProgram hb cs
  | blockReset done => exact blockResetStep_withProgram done s cs
  | lineOp w => exact lineOpStep_withProgram w s cs

/-- While BUSY = 1 a step commutes with a change of the words on offer, whatever event it has: it takes no word, and nothing
else it can do reads them (R67). -/
theorem step_withProgram {s : State} (hb : s.engine.busy = true) (cs : List Word) :
    step (s.withProgram cs) = mapNext (·.withProgram cs) (step s) := by
  cases he : s.events with
  | nil =>
    rw [step_of_nil he, step_of_nil (s := s.withProgram cs) he]
    exact engineStep_withProgram hb cs
  | cons e es =>
    rw [step_of_cons he, step_of_cons (s := s.withProgram cs) he]
    exact stepUnder_withProgram e (s := { s with events := es }) hb cs

/-- Settles O14: the step of a busy engine commutes with a change of the words on offer. -/
theorem offersDoNotReachRunningCommand : Obligations.OffersDoNotReachRunningCommand := by
  intro s cs hb
  have h : step { s with offers := cs } = mapNext (·.withProgram cs) (step s) := step_withProgram hb cs
  rw [h]
  cases step s <;> rfl

end Sys2Proof.Machine
end

section
/-! Decoding and encoding are inverse on either port (spec/30_encoding.md R72, R73, R78): an instruction's word decodes to
it, and a word that decodes is put together again from its fields. -/

namespace Sys2Proof

/-! ### The fields of a line-op word -/

@[simp] theorem kindField_append (arg : BitVec 2) (kind : BitVec 3) : kindField (arg ++ kind) = kind :=
  BitVec.extractLsb'_append_eq_right

@[simp] theorem argField_append (arg : BitVec 2) (kind : BitVec 3) : argField (arg ++ kind) = arg :=
  BitVec.extractLsb'_append_eq_left

@[simp] theorem kindField_lopWordOfBit (b : Bit) (kind : BitVec 3) : kindField (lopWordOfBit b kind) = kind :=
  kindField_append (0#1 ++ b) kind

@[simp] theorem decodeBitArg_lopWordOfBit (b : Bit) (kind : BitVec 3) (f : Bit → Instr) :
    decodeBitArg (lopWordOfBit b kind) f = .ok (f b) := by
  have htop : argTop (lopWordOfBit b kind) = (0#1 ++ b).extractLsb' 1 1 := BitVec.extractLsb'_append_eq_of_le (by omega)
  have hbit : argBit (lopWordOfBit b kind) = (0#1 ++ b).extractLsb' 0 1 := BitVec.extractLsb'_append_eq_of_le (by omega)
  rw [BitVec.extractLsb'_append_eq_left] at htop
  rw [BitVec.extractLsb'_append_eq_right] at hbit
  simp [decodeBitArg, htop, hbit]

@[simp] theorem dirOfBit_bitOfDir (d : Dir) : dirOfBit (bitOfDir d) = d := by cases d <;> rfl

@[simp] theorem bitOfDir_dirOfBit (b : Bit) : bitOfDir (dirOfBit b) = b := by revert b; decide

/-- Decoding an instruction's word gives it back (R72, R73, R78). -/
theorem decode_encode (i : Instr) : decode (encode i) = .ok i := by
  cases i with
  | configure | start | stop | busReset | getSda => decide
  | writeByte b => exact decodeCommand_wordWriteByte b
  | readByte k => exact decodeCommand_wordReadByte k
  | writeAddress a => exact decodeCommand_wordWriteAddress a
  | readAddress a => exact decodeCommand_wordReadAddress a
  | hold m | dirSda d | dirScl d | sclLvl v | sdaLvl v => simp [decode, encode, decodeLineOp]

/-- Settles O3: by the instruction, each word's fields being those its decoder asks for. -/
theorem decodeOfEncode : Obligations.DecodeOfEncode := decode_encode

/-! ### A word from its fields -/

/-- A command word is its four fields side by side (R70). -/
theorem word_of_fields {c : Word} {d : Byte} {r : BitVec 3} {a : Bit} {o : BitVec 4} (hd : dataField c = d)
    (hr : rsvField c = r) (ha : ackSelField c = a) (ho : opField c = o) : d ++ (r ++ a ++ o) = c := by
  subst hd hr ha ho
  have hra : rsvField c ++ ackSelField c = c.extractLsb' 4 4 :=
    BitVec.extractLsb'_append_extractLsb'_eq_extractLsb' rfl
  have hlow : c.extractLsb' 4 4 ++ opField c = c.extractLsb' 0 8 :=
    BitVec.extractLsb'_append_extractLsb'_eq_extractLsb' rfl
  rw [hra, hlow]
  exact BitVec.extractLsb'_append_extractLsb'

/-- DATA of an address command is its top bit and the address (R70). -/
theorem dataField_eq_append (c : Word) : dataField c = dataTopField c ++ addressField c :=
  (BitVec.extractLsb'_append_extractLsb'_eq_extractLsb' (x := c) (len₁ := 7) (len₂ := 1) rfl).symm

/-- READ_BYTE's word, byte by byte (R72). -/
theorem wordReadByte_eq_append (k : Bit) : wordReadByte k = 0#8 ++ (0#3 ++ k ++ 5#4) := by revert k; decide

/-- A command word that decodes is the word of its instruction: the fields the decoder asks for and those it reads are all
there are (R70, R73). -/
theorem encode_of_decodeCommand {c : Word} {i : Instr} (h : decodeCommand c = .ok i) : encode i = .command c := by
  obtain ⟨hr, h⟩ := decodeCommand_ok h
  rcases h with ⟨ho, ha, hd, rfl⟩ | ⟨ho, ha, hd, rfl⟩ | ⟨ho, ha, hd, rfl⟩ | ⟨ho, ha, rfl⟩ | ⟨ho, hd, rfl⟩ |
    ⟨ho, ha, ht, rfl⟩ | ⟨ho, ha, ht, rfl⟩ | ⟨ho, ha, hd, rfl⟩
  · exact congrArg _ (word_of_fields hd hr ha ho)
  · exact congrArg _ (word_of_fields hd hr ha ho)
  · exact congrArg _ (word_of_fields hd hr ha ho)
  · exact congrArg _ (word_of_fields rfl hr ha ho)
  · exact congrArg _ ((wordReadByte_eq_append _).trans (word_of_fields hd hr rfl ho))
  · exact congrArg _ (word_of_fields ((dataField_eq_append c).trans (by rw [ht])) hr ha ho)
  · exact congrArg _ (word_of_fields ((dataField_eq_append c).trans (by rw [ht])) hr ha ho)
  · exact congrArg _ (word_of_fields hd hr ha ho)

/-- A line-op word is KIND under ARG (R78). -/
theorem lopWord_of_fields {w : LopWord} {arg : BitVec 2} {kind : BitVec 3} (ha : argField w = arg)
    (hk : kindField w = kind) : arg ++ kind = w := by
  subst ha hk
  exact BitVec.extractLsb'_append_extractLsb'

/-- ARG is its two bits (R78). -/
theorem argField_eq_append (w : LopWord) : argField w = argTop w ++ argBit w :=
  (BitVec.extractLsb'_append_extractLsb'_eq_extractLsb' (x := w) (len₁ := 1) (len₂ := 1) rfl).symm

/-- A line op with a one-bit argument is read from the one word with that argument and KIND (R78). -/
theorem lopWordOfBit_of_decodeBitArg {w : LopWord} {kind : BitVec 3} {f : Bit → Instr} {i : Instr}
    (hk : kindField w = kind) (h : decodeBitArg w f = .ok i) : ∃ b, i = f b ∧ lopWordOfBit b kind = w := by
  obtain ⟨ht, rfl⟩ := decodeBitArg_ok h
  exact ⟨argBit w, rfl, lopWord_of_fields ((argField_eq_append w).trans (by rw [ht])) hk⟩

/-- A line-op word that decodes is the word of its instruction (R78). -/
theorem encode_of_decodeLineOp {w : LopWord} {i : Instr} (h : decodeLineOp w = .ok i) : encode i = .lineOp w := by
  unfold decodeLineOp at h
  split at h
  · cases h
    exact congrArg _ (lopWord_of_fields rfl ‹_›)
  iterate 4
    split at h
    · obtain ⟨b, rfl, rfl⟩ := lopWordOfBit_of_decodeBitArg ‹_› h
      simp [encode]
  split at h
  · split at h <;> cases h
    rename_i hk ha
    exact congrArg _ (lopWord_of_fields (of_not_not ha) hk)
  · cases h

/-- A word decodes to an instruction exactly when it is that instruction's word (R72, R78). -/
theorem decode_eq_ok_iff {p : PortWord} {i : Instr} : decode p = .ok i ↔ encode i = p := by
  refine ⟨fun h => ?_, fun h => h ▸ decode_encode i⟩
  cases p with
  | command c => exact encode_of_decodeCommand h
  | lineOp w => exact encode_of_decodeLineOp h

theorem decodeCommand_eq_ok_iff {c : Word} {i : Instr} : decodeCommand c = .ok i ↔ encode i = .command c :=
  decode_eq_ok_iff (p := .command c)

theorem decodeLineOp_eq_ok_iff {w : LopWord} {i : Instr} : decodeLineOp w = .ok i ↔ encode i = .lineOp w :=
  decode_eq_ok_iff (p := .lineOp w)

/-- Settles O4: a word that decodes is the one word made of the fields the instruction names. -/
theorem encodeOfDecode : Obligations.EncodeOfDecode := fun _ _ => decode_eq_ok_iff.mp

end Sys2Proof
end

section
/-! The match and mask columns (spec/30_encoding.md R72, R78): a word decodes to an instruction exactly when it is that
instruction's word, so each column says which words an instruction has. -/

namespace Sys2Proof

/-! ### Command words -/

/-- Two words are equal when they are equal half by half. -/
theorem append_inj {m n : Nat} {a a' : BitVec m} {b b' : BitVec n} : a ++ b = a' ++ b' ↔ a = a' ∧ b = b' := by
  refine ⟨fun h => ⟨?_, ?_⟩, fun ⟨ha, hb⟩ => by rw [ha, hb]⟩
  · rw [← BitVec.extractLsb'_append_eq_left (a := a) (b := b), h, BitVec.extractLsb'_append_eq_left]
  · rw [← BitVec.extractLsb'_append_eq_right (a := a) (b := b), h, BitVec.extractLsb'_append_eq_right]

/-- A command word is a byte over a byte (R70). -/
theorem exists_bytes (c : Word) : ∃ hi lo : Byte, c = hi ++ lo :=
  ⟨c.extractLsb' 8 8, c.extractLsb' 0 8, (BitVec.extractLsb'_append_extractLsb' (x := c) (w := 8) (len := 8)).symm⟩

/-- A word under a mask is the match when each of its bytes is, under its part of the mask. -/
theorem append_and_eq_iff {hi lo mhi mlo vhi vlo : Byte} :
    (hi ++ lo) &&& (mhi ++ mlo) = vhi ++ vlo ↔ hi &&& mhi = vhi ∧ lo &&& mlo = vlo := by
  rw [BitVec.and_append, append_inj]

/-- The mask of a command with no operand leaves nothing free (R72). -/
theorem eq_iff_full_mask (m c : Word) : m = c ↔ c &&& 0xFFFF#16 = m := by
  have h : c &&& 0xFFFF#16 = c := BitVec.and_allOnes
  rw [h, eq_comm]

/-- A byte is the low byte of READ_BYTE for some ACKSEL exactly when it is 5 outside bit 4 (R72). -/
theorem exists_ackSel_iff (lo : Byte) : (∃ k : Bit, 0#3 ++ k ++ 5#4 = lo) ↔ lo &&& 0xEF#8 = 0x05#8 := by
  revert lo; decide

/-- A byte is an address in its low seven bits exactly when its top bit is 0 (R72). -/
theorem exists_address_iff (hi : Byte) : (∃ a : Address, 0#1 ++ a = hi) ↔ hi &&& 0x80#8 = 0x00#8 := by
  have hbyte : ∀ b : Byte, b &&& 0x80#8 = 0x00#8 ↔ 0#1 ++ b.extractLsb' 0 7 = b := by decide
  refine ⟨?_, fun h => ⟨_, (hbyte hi).mp h⟩⟩
  rintro ⟨a, rfl⟩
  rw [hbyte, BitVec.extractLsb'_append_eq_right]

/-- WRITE_BYTE's mask leaves DATA free (R72). -/
theorem exists_wordWriteByte_iff (c : Word) : (∃ b, wordWriteByte b = c) ↔ c &&& 0x00FF#16 = 0x0004#16 := by
  obtain ⟨hi, lo, rfl⟩ := exists_bytes c
  have hones : lo &&& 0xFF#8 = lo := BitVec.and_allOnes
  calc (∃ b, wordWriteByte b = hi ++ lo)
    _ ↔ 0x04#8 = lo := ⟨fun ⟨_, h⟩ => (append_inj.mp h).2, fun h => ⟨hi, append_inj.mpr ⟨rfl, h⟩⟩⟩
    _ ↔ hi &&& 0x00#8 = 0x00#8 ∧ lo &&& 0xFF#8 = 0x04#8 := by simp [hones, eq_comm]
    _ ↔ (hi ++ lo) &&& 0x00FF#16 = 0x0004#16 := append_and_eq_iff.symm

/-- READ_BYTE's mask leaves ACKSEL free (R72). -/
theorem exists_wordReadByte_iff (c : Word) : (∃ k, wordReadByte k = c) ↔ c &&& 0xFFEF#16 = 0x0005#16 := by
  obtain ⟨hi, lo, rfl⟩ := exists_bytes c
  have hones : hi &&& 0xFF#8 = hi := BitVec.and_allOnes
  calc (∃ k, wordReadByte k = hi ++ lo)
    _ ↔ ∃ k : Bit, 0#8 = hi ∧ 0#3 ++ k ++ 5#4 = lo :=
      exists_congr fun k => by rw [wordReadByte_eq_append]; exact append_inj
    _ ↔ hi &&& 0xFF#8 = 0x00#8 ∧ lo &&& 0xEF#8 = 0x05#8 := by
      rw [exists_and_left, exists_ackSel_iff, hones, eq_comm]
    _ ↔ (hi ++ lo) &&& 0xFFEF#16 = 0x0005#16 := append_and_eq_iff.symm

/-- The mask of an address command leaves DATA[6:0] free (R72). -/
theorem exists_addressWord_iff (low : Byte) (c : Word) :
    (∃ a : Address, 0#1 ++ a ++ low = c) ↔ c &&& 0x80FF#16 = 0x00#8 ++ low := by
  obtain ⟨hi, lo, rfl⟩ := exists_bytes c
  have hones : lo &&& 0xFF#8 = lo := BitVec.and_allOnes
  calc (∃ a : Address, 0#1 ++ a ++ low = hi ++ lo)
    _ ↔ ∃ a : Address, 0#1 ++ a = hi ∧ low = lo := exists_congr fun _ => append_inj
    _ ↔ hi &&& 0x80#8 = 0x00#8 ∧ lo &&& 0xFF#8 = low := by
      rw [exists_and_right, exists_address_iff, hones, eq_comm (a := low)]
    _ ↔ (hi ++ lo) &&& 0x80FF#16 = 0x00#8 ++ low := append_and_eq_iff.symm

/-! ### Line-op words -/

/-- HOLD's mask leaves both bits of ARG free (R78). -/
theorem hold_word_iff (m : BitVec 2) (w : LopWord) :
    m ++ 0#3 = w ↔ w &&& 0b00111#5 = 0b00000#5 ∧ w.extractLsb' 3 2 = m := by
  revert m w; decide

/-- The mask of a line op with a one-bit argument leaves that bit free (R78). -/
theorem lopWordOfBit_eq_iff (b : Bit) (kind : BitVec 3) (w : LopWord) :
    lopWordOfBit b kind = w ↔ w &&& 0b10111#5 = 0#2 ++ kind ∧ w.extractLsb' 3 1 = b := by
  revert b kind w; decide

/-- GET_SDA's mask leaves nothing free (R78). -/
theorem getSda_word_iff (w : LopWord) : 5#5 = w ↔ w &&& 0b11111#5 = 0b00101#5 := by revert w; decide

/-- Settles O5: each verdict says that the word is the instruction's, which is what the row's mask and match say. -/
theorem matchMaskVerdict : Obligations.MatchMaskVerdict := by
  refine ⟨fun c => ?_, fun w => ?_⟩
  · simp only [decodeCommand_eq_ok_iff, encode, PortWord.command.injEq]
    exact ⟨eq_iff_full_mask _ c, eq_iff_full_mask _ c, eq_iff_full_mask _ c, exists_wordWriteByte_iff c,
      exists_wordReadByte_iff c, exists_addressWord_iff 0x06#8 c, exists_addressWord_iff 0x07#8 c, eq_iff_full_mask _ c⟩
  · simp only [decodeLineOp_eq_ok_iff, encode, PortWord.lineOp.injEq]
    exact ⟨fun m => hold_word_iff m w, lopWordOfBit_eq_iff 0#1 1#3 w, lopWordOfBit_eq_iff 1#1 1#3 w,
      lopWordOfBit_eq_iff 0#1 2#3 w, lopWordOfBit_eq_iff 1#1 2#3 w, fun v => lopWordOfBit_eq_iff v 3#3 w,
      fun v => lopWordOfBit_eq_iff v 4#3 w, getSda_word_iff w,
      fun i h => decodeLineOp_isLineOp (decodeLineOp_eq_ok_iff.mpr h)⟩

end Sys2Proof
end

section
/-! Illegal command words (spec/30_encoding.md R74). -/

namespace Sys2Proof

/-! ### What each shape of operand refuses (R73) -/

theorem decodePlain_error_iff {c : Word} {i : Instr} :
    (∃ e, decodePlain c i = .error e) ↔ ackSelField c ≠ 0#1 ∨ dataField c ≠ 0#8 := by
  unfold decodePlain
  split_ifs <;> simp_all

theorem decodeByteOperand_error_iff {c : Word} {f : Byte → Instr} :
    (∃ e, decodeByteOperand c f = .error e) ↔ ackSelField c ≠ 0#1 := by
  unfold decodeByteOperand
  split_ifs <;> simp_all

theorem decodeAckOperand_error_iff {c : Word} {f : Bit → Instr} :
    (∃ e, decodeAckOperand c f = .error e) ↔ dataField c ≠ 0#8 := by
  unfold decodeAckOperand
  split_ifs <;> simp_all

theorem decodeAddressOperand_error_iff {c : Word} {f : Address → Instr} :
    (∃ e, decodeAddressOperand c f = .error e) ↔ ackSelField c ≠ 0#1 ∨ dataTopField c ≠ 0#1 := by
  unfold decodeAddressOperand
  split_ifs <;> simp_all

/-! ### What the decoder refuses -/

/-- An opcode that names no command is 0 or at least 9 (R74). -/
theorem reservedOpcode_iff (o : BitVec 4) :
    o = 0#4 ∨ 9 ≤ o.toNat ↔
      o ≠ 1#4 ∧ o ≠ 2#4 ∧ o ≠ 3#4 ∧ o ≠ 4#4 ∧ o ≠ 5#4 ∧ o ≠ 6#4 ∧ o ≠ 7#4 ∧ o ≠ 8#4 := by
  revert o; decide

/-- A command word is illegal for its opcode, for RSV or for a field its command does not use (R74). -/
theorem decodeCommand_error_iff (c : Word) :
    (∃ e, decodeCommand c = .error e) ↔
      (opField c = 0#4 ∨ 9 ≤ (opField c).toNat) ∨ rsvField c ≠ 0#3 ∨ (opField c ≠ 5#4 ∧ ackSelField c ≠ 0#1) ∨
        ((opField c = 1#4 ∨ opField c = 2#4 ∨ opField c = 3#4 ∨ opField c = 5#4 ∨ opField c = 8#4) ∧
          dataField c ≠ 0#8) ∨
        ((opField c = 6#4 ∨ opField c = 7#4) ∧ dataTopField c ≠ 0#1) := by
  unfold decodeCommand
  split_ifs with hr h1 h2 h3 h4 h5 h6 h7 h8
  · simp [hr]
  · simp [decodePlain_error_iff, h1, hr]
  · simp [decodePlain_error_iff, h2, hr]
  · simp [decodePlain_error_iff, h3, hr]
  · simp [decodeByteOperand_error_iff, h4, hr]
  · simp [decodeAckOperand_error_iff, h5, hr]
  · simp [decodeAddressOperand_error_iff, h6, hr]
  · simp [decodeAddressOperand_error_iff, h7, hr]
  · simp [decodePlain_error_iff, h8, hr]
  · have hop := (reservedOpcode_iff (opField c)).mpr ⟨h1, h2, h3, h4, h5, h6, h7, h8⟩
    simp [hop]

/-- Settles O6: the decoder's branches are those reasons, opcode by opcode. -/
theorem illegalWordsAreThoseListed : Obligations.IllegalWordsAreThoseListed := decodeCommand_error_iff

end Sys2Proof
end

section
/-! The engine on the line-op port: what it puts there (spec/30_encoding.md R78, R83), and how it waits for the Line Driver
(R78, spec/93_implementation_defined.md I7). -/

namespace Sys2Proof.Machine

/-- What a template issues is well formed: a HOLD's multiplier is its site's (R83). -/
@[simp] theorem lineOpOf_wellFormed (p : Template) : (lineOpOf p).wellFormed = true := by
  cases p with
  | hold site => rcases holdMult_cases site with h | h <;> simp [lineOpOf, Instr.wellFormed, h]
  | dirSda | dirScl | scl | sda | sampleData | sampleAck => rfl

/-- A line op's word is of the line-op port (R78). -/
theorem exists_encode_eq_lineOp {i : Instr} (hi : i.isCommand = false) : ∃ w, encode i = .lineOp w := by
  cases i with
  | configure | start | stop | writeByte | readByte | writeAddress | readAddress | busReset => cases hi
  | hold | dirSda | dirScl | sclLvl | sdaLvl | getSda => exact ⟨_, rfl⟩

/-- Settles O29: the line op on the port is a template's, and its word is the one that decodes to it. -/
theorem engineEmitsOnlyTableWords : Obligations.EngineEmitsOnlyTableWords := by
  intro s i h
  obtain ⟨-, p, -, rfl⟩ := State.lineOp?_eq_some_iff.mp h
  obtain ⟨w, hw⟩ := exists_encode_eq_lineOp (lineOpOf_isCommand p)
  have hport : s.lopWord? = some w := by simp [State.lopWord?, h, hw]
  have hscl : lineOpOf p ≠ .dirScl .input := fun hp => s.lineOp?_ne_dirScl_input (hp ▸ h)
  exact ⟨lineOpOf_isCommand p, lineOpOf_wellFormed p, hscl, w, hw, hport, decodeLineOp_eq_ok_iff.mpr hw⟩

/-- A Line Driver that has not completed: the step takes the event and leaves everything else (R78, I7). -/
theorem step_of_stall {s : State} {es : List Event} (hb : s.engine.busy = true) (he : s.events = .stall :: es) :
    step s = .next { s with events := es } := by
  simp [step_of_cons he, stepUnder, stallStep, hb]

/-- Settles O59: by induction on the number of waits. -/
theorem stalledLineDriverHoldsEngine : Obligations.StalledLineDriverHoldsEngine := by
  intro n
  induction n with
  | zero => intro s es hb he; subst he; rfl
  | succ n ih =>
    intro s es hb he
    rw [runFor_succ n (step_of_stall hb he)]
    exact ih _ es hb rfl

end Sys2Proof.Machine
end

section
/-! Sample words (spec/95_test_vectors.md L2.1, spec/30_encoding.md R79). -/

namespace Sys2Proof

/-- Settles O1: by running the decoder on each word. -/
theorem sampleWordsDecode : Obligations.SampleWordsDecode := by
  unfold Obligations.SampleWordsDecode
  decide

/-- Settles O2: by running the encoder and the decoder on each example. -/
theorem lineOpWordExamples : Obligations.LineOpWordExamples := by
  unfold Obligations.LineOpWordExamples
  decide

end Sys2Proof
end

section
/-! The words of a host program (spec/30_encoding.md R81, R82): the operand stands 256 times over the opcode byte. -/

namespace Sys2Proof.Machine

/-- A byte above a byte is its number times 256. -/
theorem ofNat_append_byte (n : Nat) (low : Byte) :
    BitVec.ofNat 8 n ++ low = BitVec.ofNat 16 (n * 256 + low.toNat) := by
  apply BitVec.eq_of_toNat_eq
  rw [BitVec.toNat_append, ← Nat.shiftLeft_add_eq_or_of_lt low.isLt, Nat.shiftLeft_eq, BitVec.toNat_ofNat,
    BitVec.toNat_ofNat]
  have := low.isLt
  omega

/-- An address in range, over a 0 bit, is the byte of the same number. -/
theorem zero_append_ofNat_address {n : Nat} (hn : n ≤ 127) : 0#1 ++ BitVec.ofNat 7 n = BitVec.ofNat 8 n := by
  apply BitVec.eq_of_toNat_eq
  rw [BitVec.toNat_append, BitVec.toNat_ofNat, BitVec.toNat_ofNat, BitVec.toNat_ofNat,
    Nat.zero_mod, Nat.zero_shiftLeft, Nat.zero_or]
  omega

theorem assembleLine_writeByte {n : Nat} (hn : n ≤ 255) :
    assembleLine (.writeByte n) = some [BitVec.ofNat 16 (n * 256 + 4)] := by
  have hword : wordWriteByte (BitVec.ofNat 8 n) = BitVec.ofNat 16 (n * 256 + 4) := ofNat_append_byte n 0x04#8
  rw [assembleLine, if_pos hn, hword]

theorem assembleLine_writeAddress {n : Nat} (hn : n ≤ 127) :
    assembleLine (.writeAddress n) = some [BitVec.ofNat 16 (n * 256 + 6)] := by
  rw [assembleLine, if_pos hn, wordWriteAddress, zero_append_ofNat_address hn, ofNat_append_byte]
  rfl

theorem assembleLine_readAddress {n : Nat} (hn : n ≤ 127) :
    assembleLine (.readAddress n) = some [BitVec.ofNat 16 (n * 256 + 7)] := by
  rw [assembleLine, if_pos hn, wordReadAddress, zero_append_ofNat_address hn, ofNat_append_byte]
  rfl

/-- The words of a list of lines are those of its first line before those of the rest (R81). -/
theorem assembleLines_cons {l : CommandLine} {ls : List CommandLine} {ws rest : List Word}
    (hl : assembleLine l = some ws) (hls : assembleLines ls = some rest) :
    assembleLines (l :: ls) = some (ws ++ rest) := by
  simp [assembleLines, hl, hls]

/-- Settles O7: a line by whether its immediate is in range, an expansion line by line. -/
theorem hostProgramWords : Obligations.HostProgramWords := by
  refine ⟨fun _ => assembleLine_writeByte, fun _ => assembleLine_writeAddress, fun _ => assembleLine_readAddress,
    fun n hn => if_neg (by omega), fun n hn => ⟨if_neg (by omega), if_neg (by omega)⟩, fun n hn => if_pos hn,
    rfl, rfl, rfl, rfl, rfl, rfl, fun a r v ha hr hv => ?_⟩
  have waddr := assembleLine_writeAddress ha
  have raddr := assembleLine_readAddress ha
  have reg := assembleLine_writeByte hr
  have val := assembleLine_writeByte hv
  have start : assembleLine .start = some [0x0002#16] := rfl
  have stop : assembleLines [.stop] = some [0x0003#16] := rfl
  refine ⟨?_, ?_, ?_⟩
  · exact assembleLines_cons start (assembleLines_cons waddr (assembleLines_cons reg (assembleLines_cons val stop)))
  · have nackStop : assembleLines [.readByteNack, .stop] = some [0x0015#16, 0x0003#16] := rfl
    have read : assembleLines [.start, .readAddress a, .readByteNack, .stop] =
        some [0x0002#16, BitVec.ofNat 16 (a * 256 + 7), 0x0015#16, 0x0003#16] :=
      assembleLines_cons start (assembleLines_cons raddr nackStop)
    exact assembleLines_cons start (assembleLines_cons waddr (assembleLines_cons reg read))
  · exact assembleLines_cons start (assembleLines_cons waddr stop)

end Sys2Proof.Machine
end

section
/-! The command port of an idle engine (spec/40_sequencer.md R100, R101, R111). -/

namespace Sys2Proof.Machine

/-- A ready engine takes the word the host offers (R100, R111). -/
theorem step_of_offer {s : State} {c : Word} {cs : List Word} (hr : s.ready) (ho : s.offers = c :: cs) :
    step s = takeWord c { s with offers := cs } := by
  obtain ⟨hb, he⟩ := hr
  simp [step_idle hb he, idleStep, ho]

theorem takeWord_of_ok {c : Word} {i : Instr} (hc : decodeCommand c = .ok i) (s : State) : takeWord c s = exec i s := by
  simp [takeWord, hc]

theorem takeWord_of_error {c : Word} {e : DecodeError} (hc : decodeCommand c = .error e) (s : State) :
    takeWord c s = .next s.takeIllegal := by
  simp [takeWord, hc]

/-- An idle engine accepts a command under the word that was offered, since a command has no other word (R72, R100). -/
theorem exec_of_decode {c : Word} {i : Instr} {s : State} (hc : decodeCommand c = .ok i) (hb : s.engine.busy = false) :
    exec i s = .next (s.accept c) := by
  obtain ⟨c', hc', haccept⟩ := exec_command_accepts (decodeCommand_isCommand hc) hb
  obtain rfl : c = c' :=
    PortWord.command.inj ((encode_of_decodeCommand hc).symm.trans (encode_of_decodeCommand hc'))
  exact haccept

/-- How many line ops a command has (R102, R234). -/
theorem length_opsOf {i : Instr} (hi : i.isCommand = true) :
    (opsOf i).length = 4 ∨ (opsOf i).length = 7 ∨ (opsOf i).length = 50 ∨ (opsOf i).length = 54 ∨
      (opsOf i).length = 57 := by
  cases i with
  | hold | dirSda | dirScl | sclLvl | sdaLvl | getSda => cases hi
  | configure => exact .inl rfl
  | start | stop => exact .inr (.inl rfl)
  | readByte k => exact .inr (.inr (.inl rfl))
  | busReset => exact .inr (.inr (.inr (.inl rfl)))
  | writeByte | writeAddress | readAddress => exact .inr (.inr (.inr (.inr rfl)))

/-- A legal word names a list of at least four line ops and at most 57 (R23, R100). -/
theorem length_ops_of_decode {c : Word} {i : Instr} (hc : decodeCommand c = .ok i) :
    4 ≤ (ops c).length ∧ (ops c).length ≤ 57 := by
  have hlength := length_opsOf (decodeCommand_isCommand hc)
  rw [ops_of_decode hc]
  omega

/-- A busy engine takes no word, whatever event the step has (R32, R100). -/
theorem step_offers_of_busy {s t : State} (hb : s.engine.busy = true) (h : step s = .next t) : t.offers = s.offers := by
  rcases step_status h with ⟨_, _, -, -, ho⟩ | ⟨hidle, -⟩ | ⟨-, ho, -⟩ | ⟨-, ho⟩
  · exact ho
  · simp [hb] at hidle
  · exact ho
  · exact ho

/-- Settles O8: the word offered is taken, and taking a word that decodes is exec of what it decodes to. -/
theorem stepRunsOfferedCommand : Obligations.StepRunsOfferedCommand := by
  intro s c cs i hr ho hc
  rw [step_of_offer hr ho, takeWord_of_ok hc]

/-- Settles O11: the state accepted is the one R100 writes out, and of all that a step can do only the taking of a word by
an idle engine moves the host's words. -/
theorem acceptanceOfLegalWord : Obligations.AcceptanceOfLegalWord := by
  refine ⟨fun s c cs i hr ho hc => ⟨?_, (length_ops_of_decode hc).1⟩, fun _ _ => step_offers_of_busy, fun _ => rfl⟩
  rw [step_of_offer hr ho, takeWord_of_ok hc, exec_of_decode (s := { s with offers := cs }) hc hr.1]
  rfl

/-- Settles O12: taking an illegal word, and the reasons R74 gives for the corner cases. -/
theorem illegalWordSetsIllegalOnly : Obligations.IllegalWordSetsIllegalOnly := by
  refine ⟨fun s c cs e hr ho hc => ?_, ?_⟩
  · rw [step_of_offer hr ho, takeWord_of_error hc]
    rfl
  · simp only [decodeCommand_error_iff]
    exact List.forall_iff_forall_mem.mp (by decide)

/-- Settles O13: an idle engine looks at the command port only when the host may offer a word, and a busy engine performs
its micro-step either way. -/
theorem idleWithoutOfferDoesNothing : Obligations.IdleWithoutOfferDoesNothing := by
  refine ⟨fun s ⟨hb, he⟩ ho => ?_, fun s es hb he => ?_, fun s es hb he => ?_⟩
  · simp [step_idle hb he, idleStep, ho]
  · simp [step_of_cons he, stepUnder, hostIdleStep, hb]
  · rw [step_of_cons he, step_of_cons (s := { s with events := .run :: es }) rfl]
    simp [stepUnder, hostIdleStep, engineStep, hb]

/-- Settles O15: each of the eight commands is its word on the command port. -/
theorem commandsWaitWhileBusy : Obligations.CommandsWaitWhileBusy := by
  intro i s hi hb
  have waits (c : Word) : takeCommand c s = .next s := by simp [takeCommand, hb]
  cases i with
  | hold | dirSda | dirScl | sclLvl | sdaLvl | getSda => cases hi
  | configure | start | stop | writeByte | readByte | writeAddress | readAddress | busReset => exact waits _

end Sys2Proof.Machine
end

section
/-! The micro-step of a busy engine and the end of its command (spec/40_sequencer.md R103 to R105). -/

namespace Sys2Proof.Machine

/-- What the observation keeps of a line op (R236). -/
theorem State.record_trace (s : State) (p : Template) :
    (s.record p).trace =
      { op := lineOpOf p, sample := if lineOpOf p = .getSda then some s.lopSda else none } :: s.trace := by
  cases p <;> simp [record, lineOpOf]

theorem State.route_engine_shift (s : State) (p : Template) :
    (s.route p).engine.shift =
      if p = .sampleData then (s.engine.shift <<< 1) ||| s.lopSda.setWidth 8 else s.engine.shift := by
  cases p <;> simp [route]

theorem State.route_engine_ackBit (s : State) (p : Template) :
    (s.route p).engine.ackBit = if p = .sampleAck then s.lopSda else s.engine.ackBit := by
  cases p <;> simp [route]

/-- The shift register takes the bit of a SAMPLE_DATA and is left alone by every other line op (R104). -/
theorem State.retire_engine_shift (s : State) (p : Template) :
    (s.retire p).engine.shift =
      if p = .sampleData then (s.engine.shift <<< 1) ||| s.lopSda.setWidth 8 else s.engine.shift := by
  unfold retire
  simp only
  split <;> simp [route_engine_shift]

/-- The acknowledge register takes the bit of a SAMPLE_ACK and is left alone by every other line op (R104). -/
theorem State.retire_engine_ackBit (s : State) (p : Template) :
    (s.retire p).engine.ackBit = if p = .sampleAck then s.lopSda else s.engine.ackBit := by
  unfold retire
  simp only
  split <;> simp [route_engine_ackBit]

/-- A command's result is written over the status word from the two registers alone (R105). -/
theorem State.writeResult_status_congr {s t : State} (hstatus : s.status = t.status)
    (hack : s.engine.ackBit = t.engine.ackBit) (hshift : s.engine.shift = t.engine.shift) (i : Instr) :
    (s.writeResult i).status = (t.writeResult i).status := by
  cases i <;> simp [writeResult, writeAck, writeRxData, hstatus, hack, hshift]

/-- Before the last line op the status word stays (R105). -/
theorem State.retire_status_of_not_last {s : State} (p : Template)
    (hlast : s.engine.step + 1 ≠ (ops s.engine.cmd).length) : (s.retire p).status = s.status := by
  simp [retire, hlast]

/-- The last line op writes the command's result over the status word, from the registers it leaves (R105). -/
theorem State.retire_status_of_last {s : State} {i : Instr} (p : Template)
    (hlast : s.engine.step + 1 = (ops s.engine.cmd).length) (hi : decodeCommand s.engine.cmd = .ok i) :
    (s.retire p).status = ({ s with engine := (s.retire p).engine }.writeResult i).status := by
  have hretire : s.retire p = (((s.record p).route p).advance.writeResult i).clearBusy := by
    simp [retire, hlast, complete_of_decode (s := ((s.record p).route p).advance) (i := i) (by simpa using hi)]
  rw [hretire, clearBusy_status]
  exact writeResult_status_congr (by simp) (by simp) (by simp) i

/-- Settles O9: the step performs the template and retires it; what is left of the state the line op answered is said
field by field. -/
theorem stepRunsMicroStep : Obligations.StepRunsMicroStep := by
  intro s u p hb he hp hu
  obtain ⟨hengine, hstatus, hoffers, hevents, htrace⟩ := exec_lineOp_frame (lineOpOf_isCommand p) hu
  obtain ⟨hcmd, hstep, hld, hro, hre, hsamples, hdraws, hlop, -, hrt⟩ := u.retire_frame p
  have hfall := u.retire_busy p
  have hshift := u.retire_engine_shift p
  have hack := u.retire_engine_ackBit p
  have hkept := u.retire_status_of_not_last p
  have hlog : (u.retire p).trace =
      { op := lineOpOf p, sample := if lineOpOf p = .getSda then some u.lopSda else none } :: s.trace := by
    rw [hrt, u.record_trace, htrace]
  rw [hengine] at hcmd hstep hfall hshift hack hkept
  rw [hstatus] at hkept
  have hresult {i : Instr} (hlast : s.engine.step + 1 = (ops s.engine.cmd).length)
      (hi : decodeCommand s.engine.cmd = .ok i) :
      (u.retire p).status = ({ s with engine := (u.retire p).engine }.writeResult i).status := by
    rw [← hengine] at hlast hi
    rw [u.retire_status_of_last p hlast hi]
    apply State.writeResult_status_congr
    · exact hstatus
    · rfl
    · rfl
  have hfall' : (u.retire p).engine.busy = decide (s.engine.step + 1 ≠ (ops s.engine.cmd).length) := by
    rw [hfall, hb, Bool.true_and, decide_not, Bool.beq_eq_decide_eq]
  refine ⟨u.retire p, by rw [step_busy hb he, microStep_eq hp hu], hcmd, hstep, hshift, hack, hfall', hkept,
    fun hlast => ⟨fun _ hi => hresult hlast hi, fun _ hi => hresult hlast hi, fun _ hi => hresult hlast hi,
      fun _ hi => hresult hlast hi, fun i hi hplain => ?_⟩,
    hld, hlop, hsamples, hdraws, hro.trans hoffers, hre.trans (hevents.trans he), by simp [State.issuedOps, hlog], hlog⟩
  rcases hplain with rfl | rfl | rfl | rfl <;> exact hresult hlast hi

/-- Settles O38: the command is accepted under a word of its own, its whole list ends it, and a part of its list leaves
BUSY at 1 and E.STEP at the number of line ops performed. -/
theorem commandEndsAfterItsList : Obligations.CommandEndsAfterItsList := by
  intro i s hi ⟨hb, he⟩
  obtain ⟨c, hc, haccept⟩ := exec_command_accepts hi hb
  refine ⟨_, _, haccept, run_command he hc (opsOf_ne_nil hi), rfl, fun n hn => ?_⟩
  exact ⟨_, run_command_part he hc hn, by simp, by simp [Nat.le_of_lt hn]⟩

end Sys2Proof.Machine
end

section
/-! The sequencer's invariant (spec/40_sequencer.md R103, spec/20_memory.md R56, R57): each way a step can go keeps it. -/

namespace Sys2Proof.Machine

/-! ### SDA's direction along a list -/

/-- Every command sets SDA's direction before anything else (R102). -/
theorem opsOf_eq_dirSda_cons {i : Instr} (hi : i.isCommand = true) : ∃ d l, opsOf i = .dirSda d :: l := by
  cases i with
  | hold | dirSda | dirScl | sclLvl | sdaLvl | getSda => cases hi
  | configure | start | stop | writeByte | readByte | writeAddress | readAddress | busReset => exact ⟨_, _, rfl⟩

/-- A line op is left to perform while E.STEP is below the length of the list (R103). -/
theorem State.template?_isSome_iff {s : State} :
    s.template?.isSome = true ↔ s.engine.step < (ops s.engine.cmd).length := by
  simp [template?]

/-- A line op to perform is one of a legal word's list (R101, R103). -/
theorem State.decode_of_template? {s : State} {p : Template} (h : s.template? = some p) :
    ∃ i, decodeCommand s.engine.cmd = .ok i := by
  cases hc : decodeCommand s.engine.cmd with
  | ok i => exact ⟨i, rfl⟩
  | error e => simp [template?, ops, hc] at h

/-- The first line op of a command sets SDA's direction (R102). -/
theorem State.template?_at_zero {s : State} {p : Template} (h : s.template? = some p) (hs : s.engine.step = 0) :
    ∃ d, p = .dirSda d := by
  obtain ⟨i, hi⟩ := State.decode_of_template? h
  obtain ⟨d, l, hl⟩ := opsOf_eq_dirSda_cons (decodeCommand_isCommand hi)
  exact ⟨d, by simpa [template?, ops_of_decode hi, hl, hs, eq_comm] using h⟩

/-- A template leaves SDA's direction as it sets it, or as it was (R53). -/
theorem LineDriver.after_sdaDir (l : LineDriver) (p : Template) :
    (l.after p).sdaDir = (lastSdaDir [p]).getD l.sdaDir := by
  cases p <;> rfl

/-- The line op in turn leaves SDA's direction as the line ops up to it have set it: the first sets it, and from there on
each keeps what the ones before it have set, or sets it anew (R53, R103). -/
theorem State.lastSdaDir_take_succ {s : State} {p : Template} (hp : s.template? = some p)
    (hd : s.engine.step ≠ 0 → lastSdaDir ((ops s.engine.cmd).take s.engine.step) = some s.ld.sdaDir) :
    lastSdaDir ((ops s.engine.cmd).take (s.engine.step + 1)) = some (s.ld.after p).sdaDir := by
  have htake : (ops s.engine.cmd).take (s.engine.step + 1) = (ops s.engine.cmd).take s.engine.step ++ [p] := by
    rw [List.take_add_one, show (ops s.engine.cmd)[s.engine.step]? = some p from hp, Option.toList_some]
  rw [htake, lastSdaDir_append, LineDriver.after_sdaDir]
  by_cases hs : s.engine.step = 0
  · obtain ⟨d, rfl⟩ := State.template?_at_zero hp hs
    simp [lastSdaDir]
  · rw [hd hs, Option.or_some]

/-! ### The invariant along a step -/

/-- The line op in flight takes no event (R221). -/
@[simp] theorem State.finishInFlight_events (s : State) : s.finishInFlight.events = s.events := by
  rcases s.finishInFlight_cases with h | ⟨p, -, h⟩
  · rw [h]
  · obtain ⟨-, -, -, he, -⟩ := exec_lineOp_frame (lineOpOf_isCommand p) h
    exact he

/-- Taking an event off the queue keeps the invariant. -/
theorem State.Inv.popEvent {s : State} (h : s.Inv) : s.popEvent.Inv := by
  obtain ⟨hx, hrest⟩ := h
  refine ⟨?_, hrest⟩
  simp only [State.popEvent, List.all_eq_true] at hx ⊢
  exact fun e he => hx e (List.mem_of_mem_tail he)

/-- Block reset leaves an idle engine at E.STEP = 0 (R220). -/
theorem blockResetStep_inv {done : Bool} {s t : State} (hi : s.Inv) (h : blockResetStep done s = .next t) : t.Inv := by
  obtain ⟨hx, -, -⟩ := hi
  cases done <;> cases h <;> simpa [State.Inv] using hx

/-- An idle engine that takes a word is left with a whole list to perform, or stays idle (R100, R101). -/
theorem takeWord_inv {c : Word} {s t : State} (hb : s.engine.busy = false) (hi : s.Inv) (h : takeWord c s = .next t) :
    t.Inv := by
  obtain ⟨hx, hstep, -⟩ := hi
  cases hc : decodeCommand c with
  | ok i =>
    obtain rfl : s.accept c = t := by simpa [takeWord_of_ok hc, exec_of_decode hc hb] using h
    have hpos : 0 < (ops c).length := Nat.lt_of_lt_of_le (by decide) (length_ops_of_decode hc).1
    exact ⟨hx, Nat.zero_le _, fun _ => ⟨State.template?_isSome_iff.mpr hpos, fun h0 => absurd rfl h0⟩⟩
  | error e =>
    obtain rfl : s.takeIllegal = t := by simpa [takeWord_of_error hc] using h
    exact ⟨hx, hstep, by simp [hb]⟩

/-- A micro-step keeps the invariant: it either ends the command or moves on to the next line op, with SDA's direction as
the line op performed leaves it (R53, R103). -/
theorem microStep_inv {s t : State} (hb : s.engine.busy = true) (hi : s.Inv) (h : microStep s = .next t) : t.Inv := by
  obtain ⟨hx, -, hbusy⟩ := hi
  obtain ⟨-, hdir⟩ := hbusy hb
  obtain ⟨p, u, hp, hu, rfl⟩ := microStep_next h
  obtain ⟨hengine, -, -, hevents, -⟩ := exec_lineOp_frame (lineOpOf_isCommand p) hu
  obtain ⟨hcmd, hstep, hld, -, hre, -⟩ := u.retire_frame p
  have hfall := u.retire_busy p
  rw [hengine] at hcmd hstep hfall
  have hlt := State.template?_lt hp
  obtain ⟨i, hc⟩ := State.decode_of_template? hp
  have hlength := (length_ops_of_decode hc).2
  refine ⟨by rwa [State.exclusive, hre, hevents], by omega, fun hrun => ⟨?_, fun _ => ?_⟩⟩
  · have hne : s.engine.step + 1 ≠ (ops s.engine.cmd).length := by
      rw [hrun, hb] at hfall
      simpa using hfall
    rw [State.template?_isSome_iff, hcmd, hstep]
    omega
  · rw [hcmd, hstep, hld, exec_lineOpOf_ld hu]
    exact State.lastSdaDir_take_succ hp hdir

/-- Settles O35: at reset the engine is idle, E.STEP is 0 and no event is listed. -/
theorem invAtReset : Obligations.InvAtReset := ⟨rfl, Nat.zero_le _, fun h => nomatch h⟩

/-- Settles O36: of what a step can do, another agent's line op is excluded by the invariant, and the rest keeps it. -/
theorem invKeptByEveryStep : Obligations.InvKeptByEveryStep := by
  intro s t hi h
  rcases step_cases h with ⟨done, es, -, hr⟩ | ⟨w, es, he, -⟩ | ⟨-, rfl⟩ | ⟨-, rfl⟩ | ⟨hb, c, cs, -, ht⟩ | ⟨hb, hm⟩
  · exact blockResetStep_inv hi.popEvent hr
  · obtain ⟨hx, -⟩ := hi
    simp [he, Event.isLineOp] at hx
  · exact hi.popEvent
  · exact hi.popEvent
  · exact takeWord_inv (s := { s.popEvent with offers := cs }) hb hi.popEvent ht
  · exact microStep_inv (s := s.popEvent) hb hi.popEvent hm

end Sys2Proof.Machine
end

section
/-! The engine never branches on what it samples (spec/40_sequencer.md R102, R108, spec/10_state.md R38): every operation of
a step leads two states that are alike but for the samples to states that are alike so. -/

namespace Sys2Proof.Machine

/-- Two states that agree in everything but the samples and what came from them. -/
structure State.AlikeButSamples (s s' : State) : Prop where
  busy : s.engine.busy = s'.engine.busy
  cmd : s.engine.cmd = s'.engine.cmd
  step : s.engine.step = s'.engine.step
  illegal : s.status.illegal = s'.status.illegal
  ld : s.ld = s'.ld
  offers : s.offers = s'.offers
  events : s.events = s'.events
  traceOps : s.trace.map Issued.op = s'.trace.map Issued.op

/-- Blanking the samples of an observation keeps its line ops and nothing else. -/
theorem map_blank_eq_iff {l l' : List Issued} :
    l.map (fun e => { e with sample := none }) = l'.map (fun e => { e with sample := none }) ↔
      l.map Issued.op = l'.map Issued.op := by
  have hblank (l : List Issued) : l.map (fun e => { e with sample := none }) =
      (l.map Issued.op).map fun i => { op := i, sample := none } := by simp
  rw [hblank, hblank]
  exact (List.map_injective_iff.mpr fun _ _ h => congrArg Issued.op h).eq_iff

/-- States are alike but for the samples exactly when they are equal once these are blanked. -/
theorem State.withoutSamples_eq_iff {s s' : State} : s.withoutSamples = s'.withoutSamples ↔ s.AlikeButSamples s' := by
  simp only [withoutSamples, State.mk.injEq, Engine.mk.injEq, Status.mk.injEq, map_blank_eq_iff]
  constructor
  · rintro ⟨⟨hb, hc, hs, -⟩, ⟨-, hi, -⟩, hl, -, ho, he, -, -, ht⟩
    exact ⟨hb, hc, hs, hi, hl, ho, he, ht⟩
  · rintro ⟨hb, hc, hs, hi, hl, ho, he, ht⟩
    exact ⟨⟨hb, hc, hs, trivial, trivial⟩, ⟨trivial, hi, trivial⟩, hl, trivial, ho, he, trivial, trivial, ht⟩

namespace State.AlikeButSamples

variable {s s' : State}

theorem template?_eq (h : s.AlikeButSamples s') : s.template? = s'.template? := by
  rw [template?, template?, h.cmd, h.step]

theorem lineOp?_eq (h : s.AlikeButSamples s') : s.lineOp? = s'.lineOp? := by
  rw [lineOp?, lineOp?, h.busy, h.template?_eq]

theorem setOffers (h : s.AlikeButSamples s') (cs : List Word) :
    State.AlikeButSamples { s with offers := cs } { s' with offers := cs } := { h with offers := rfl }

theorem setEvents (h : s.AlikeButSamples s') (es : List Event) :
    State.AlikeButSamples { s with events := es } { s' with events := es } := { h with events := rfl }

theorem setLd (h : s.AlikeButSamples s') {l l' : LineDriver} (hl : l = l') :
    State.AlikeButSamples { s with ld := l } { s' with ld := l' } := { h with ld := hl }

theorem takeIllegal (h : s.AlikeButSamples s') : s.takeIllegal.AlikeButSamples s'.takeIllegal := { h with illegal := rfl }

theorem accept (h : s.AlikeButSamples s') (c : Word) : (s.accept c).AlikeButSamples (s'.accept c) :=
  { h with busy := rfl, cmd := rfl, step := rfl, illegal := rfl }

theorem resetEngine (h : s.AlikeButSamples s') : s.resetEngine.AlikeButSamples s'.resetEngine :=
  { h with busy := rfl, cmd := rfl, step := rfl, illegal := rfl }

/-- The drawn bits may differ, and so may what is left to draw. -/
theorem sampleSda (h : s.AlikeButSamples s') : s.sampleSda.AlikeButSamples s'.sampleSda := by
  constructor <;> simp [h.busy, h.cmd, h.step, h.illegal, h.ld, h.offers, h.events, h.traceOps]

/-- Routing a sample and writing a result move only what came from samples; E.STEP and BUSY go by E.CMD and E.STEP
(R103 to R105). -/
theorem retire (h : s.AlikeButSamples s') (p : Template) : (s.retire p).AlikeButSamples (s'.retire p) := by
  obtain ⟨hcmd, hstep, hld, ho, he, -, -, -, hi, ht⟩ := s.retire_frame p
  obtain ⟨hcmd', hstep', hld', ho', he', -, -, -, hi', ht'⟩ := s'.retire_frame p
  exact {
    busy := by rw [State.retire_busy, State.retire_busy, h.busy, h.step, h.cmd]
    cmd := by rw [hcmd, hcmd', h.cmd]
    step := by rw [hstep, hstep', h.step]
    illegal := by rw [hi, hi', h.illegal]
    ld := by rw [hld, hld', h.ld]
    offers := by rw [ho, ho', h.offers]
    events := by rw [he, he', h.events]
    traceOps := by simp [ht, ht', State.record_trace, h.traceOps] }

end State.AlikeButSamples

/-- An operation to which samples are invisible: from states alike but for the samples it answers states alike so, or stops
for the same reason. -/
def SampleBlind (f : State → Result) : Prop :=
  ∀ s s' : State, s.AlikeButSamples s' → mapNext State.withoutSamples (f s) = mapNext State.withoutSamples (f s')

/-- Two next states alike but for the samples are the same outcome. -/
theorem State.AlikeButSamples.next {s s' : State} (h : s.AlikeButSamples s') :
    mapNext State.withoutSamples (.next s) = mapNext State.withoutSamples (.next s') :=
  congrArg Host.Outcome.next (State.withoutSamples_eq_iff.mpr h)

/-- Outcomes that an update of the next state makes equal: two next states that it makes equal, or one stop. -/
theorem mapNext_eq_cases {f : State → State} {r r' : Result} (h : mapNext f r = mapNext f r') :
    (∃ t t', r = .next t ∧ r' = .next t' ∧ f t = f t') ∨ (r = r' ∧ ∀ t, r ≠ .next t) := by
  cases r with
  | next t =>
    cases r' with
    | next t' => exact .inl ⟨t, t', rfl, rfl, Host.Outcome.next.inj h⟩
    | fault | refused => cases h
  | fault g =>
    cases r' with
    | fault g' => exact .inr ⟨h, fun _ ht => nomatch ht⟩
    | next | refused => cases h
  | refused g =>
    cases r' with
    | refused g' => exact .inr ⟨h, fun _ ht => nomatch ht⟩
    | next | fault => cases h

/-- A meaning reads BUSY and SDA's direction only: what a GET_SDA draws is stored and not looked at. -/
theorem exec_sampleBlind (i : Instr) : SampleBlind (exec i) := by
  intro s s' h
  have command (c : Word) :
      mapNext State.withoutSamples (takeCommand c s) = mapNext State.withoutSamples (takeCommand c s') := by
    unfold takeCommand
    rw [h.busy]
    split
    · exact h.next
    · exact (h.accept c).next
  cases i with
  | configure | start | stop | writeByte | readByte | writeAddress | readAddress | busReset => exact command _
  | hold m => exact h.next
  | dirSda d => exact (h.setLd (by rw [h.ld])).next
  | dirScl d => exact (h.setLd (by rw [h.ld])).next
  | sclLvl v => exact (h.setLd (by rw [h.ld])).next
  | sdaLvl v =>
    simp only [exec, execSdaLvl, h.ld]
    split
    · exact (h.setLd (by rw [h.ld])).next
    · rfl
  | getSda =>
    simp only [exec, execGetSda, h.ld]
    split
    · exact h.sampleSda.next
    · rfl

/-- Two line ops alike end alike: in states alike but for the samples, or in the same stop. -/
theorem exec_alike_cases (i : Instr) {s s' : State} (h : s.AlikeButSamples s') :
    (∃ u u', exec i s = .next u ∧ exec i s' = .next u' ∧ u.AlikeButSamples u') ∨
      (exec i s = exec i s' ∧ ∀ u, exec i s ≠ .next u) := by
  rcases mapNext_eq_cases (exec_sampleBlind i s s' h) with ⟨u, u', hu, hu', ha⟩ | hstop
  · exact .inl ⟨u, u', hu, hu', State.withoutSamples_eq_iff.mp ha⟩
  · exact .inr hstop

theorem microStep_sampleBlind : SampleBlind microStep := by
  intro s s' h
  unfold microStep
  rw [h.template?_eq]
  cases s'.template? with
  | none => rfl
  | some p =>
    rcases exec_alike_cases (lineOpOf p) h with ⟨u, u', hu, hu', ha⟩ | ⟨hstop, -⟩
    · simp only [hu, hu']
      exact (ha.retire p).next
    · simp only [hstop]

theorem takeWord_sampleBlind (c : Word) : SampleBlind (takeWord c) := by
  intro s s' h
  cases hc : decodeCommand c with
  | ok i => rw [takeWord_of_ok hc, takeWord_of_ok hc]; exact exec_sampleBlind i s s' h
  | error e => rw [takeWord_of_error hc, takeWord_of_error hc]; exact h.takeIllegal.next

theorem idleStep_sampleBlind : SampleBlind idleStep := by
  intro s s' h
  unfold idleStep
  rw [h.offers]
  split
  · exact h.next
  · exact takeWord_sampleBlind _ _ _ (h.setOffers _)

/-- A choice by BUSY between two operations blind to samples is blind to them. -/
theorem SampleBlind.ite_busy {f g : State → Result} (hf : SampleBlind f) (hg : SampleBlind g) :
    SampleBlind fun s => if s.engine.busy then f s else g s := by
  intro s s' h
  simp only [h.busy]
  split
  · exact hf s s' h
  · exact hg s s' h

theorem next_sampleBlind : SampleBlind .next := fun _ _ h => h.next

theorem lineOpStep_sampleBlind (w : LopWord) : SampleBlind (lineOpStep w) := by
  intro s s' h
  unfold lineOpStep
  split
  · exact exec_sampleBlind _ s s' h
  · rfl

/-- The line op in flight under block reset takes effect alike. -/
theorem State.AlikeButSamples.finishInFlight {s s' : State} (h : s.AlikeButSamples s') :
    s.finishInFlight.AlikeButSamples s'.finishInFlight := by
  unfold State.finishInFlight
  rw [h.lineOp?_eq]
  cases s'.lineOp? with
  | none => exact h
  | some i =>
    rcases exec_alike_cases i h with ⟨u, u', hu, hu', ha⟩ | ⟨hstop, hne⟩
    · simpa only [hu, hu'] using ha
    · simp only [← hstop]
      cases hs : exec i s with
      | next u => exact absurd hs (hne u)
      | fault | refused => exact h

theorem blockResetStep_sampleBlind (done : Bool) : SampleBlind (blockResetStep done) := by
  intro s s' h
  cases done with
  | false => exact h.resetEngine.next
  | true => exact h.finishInFlight.resetEngine.next

theorem stepUnder_sampleBlind (e : Event) : SampleBlind (stepUnder e) := by
  cases e with
  | run => exact microStep_sampleBlind.ite_busy idleStep_sampleBlind
  | hostIdle => exact microStep_sampleBlind.ite_busy next_sampleBlind
  | stall => exact next_sampleBlind.ite_busy idleStep_sampleBlind
  | blockReset done => exact blockResetStep_sampleBlind done
  | lineOp w => exact lineOpStep_sampleBlind w

/-- No step sees the samples, whatever event it has (R102). -/
theorem step_sampleBlind : SampleBlind step := by
  intro s s' h
  cases he : s'.events with
  | nil =>
    rw [step_of_nil he, step_of_nil (h.events.trans he)]
    exact stepUnder_sampleBlind .run s s' h
  | cons e es =>
    rw [step_of_cons he, step_of_cons (h.events.trans he)]
    exact stepUnder_sampleBlind e _ _ (h.setEvents es)

/-- Settles O41: no operation of a step sees the samples. -/
theorem samplesNeverChangeTheSequence : Obligations.SamplesNeverChangeTheSequence := by
  intro s s' h
  rcases mapNext_eq_cases (step_sampleBlind s s' (State.withoutSamples_eq_iff.mp h)) with
    ⟨t, t', ht, ht', ha⟩ | ⟨hstop, -⟩
  · rw [ht, ht']
    exact ha
  · rw [hstop]
    cases step s' <;> rfl

end Sys2Proof.Machine
end

section
/-! CONFIGURE, START and STOP (spec/41_start_stop.md): what a command that samples nothing leaves, the end states of the
three, and the conditions they make on the bus. -/

namespace Sys2Proof.Machine

/-! ### A command that samples nothing -/

/-- A template other than a sample moves the latches, adds its line op to the observation and advances E.STEP (R103). -/
theorem performed_of_unsampled {p : Template} (hp : lineOpOf p ≠ .getSda) (s : State) :
    s.performed p = { s with
      engine := { s.engine with step := s.engine.step + 1 }
      ld := s.ld.after p
      trace := { op := lineOpOf p, sample := none } :: s.trace } := by
  cases p with
  | hold | dirSda | dirScl | scl | sda => rfl
  | sampleData | sampleAck => exact absurd rfl hp

/-- A list without a sample reaches the latches, the observation and E.STEP, and nothing else (R103, R236). -/
theorem foldl_performed_of_unsampled {l : List Template} (hl : .getSda ∉ l.map lineOpOf) (s : State) :
    l.foldl State.performed s = { s with
      engine := { s.engine with step := s.engine.step + l.length }
      ld := l.foldl LineDriver.after s.ld
      trace := (observe (l.map lineOpOf) []).reverse ++ s.trace } := by
  induction l generalizing s with
  | nil => rfl
  | cons p l ih =>
    obtain ⟨hp, hl⟩ : lineOpOf p ≠ .getSda ∧ .getSda ∉ l.map lineOpOf := by
      simpa only [List.map_cons, List.mem_cons, not_or, ne_comm] using hl
    rw [List.foldl_cons, ih hl, performed_of_unsampled hp]
    simp [observe, hp, Nat.add_right_comm, Nat.add_assoc]

/-- The state `s` once the command `i` under the word `c`, which samples nothing and writes no result, has run from its
acceptance to its end. -/
def State.afterUnsampled (s : State) (c : Word) (i : Instr) : State :=
  { s with
    engine := { busy := false, cmd := c, step := (opsOf i).length, shift := 0x00#8, ackBit := 1#1 }
    status := { s.status with illegal := false }
    ld := (opsOf i).foldl LineDriver.after s.ld
    trace := (observe (lineOpsOf i) []).reverse ++ s.trace }

/-- A command that samples nothing and writes no result completes from every ready state: it is accepted, and the run of its
list leaves what R100, R103 and R105 say and nothing else. -/
theorem unsampled_command_completes {i : Instr} {c : Word} {s : State} (hr : s.ready) (hc : decodeCommand c = .ok i)
    (hsample : .getSda ∉ lineOpsOf i) (hresult : ∀ t : State, t.writeResult i = t) :
    exec i s = .next (s.accept c) ∧
      ∃ t, runFor (opsOf i).length (s.accept c) = .next t ∧ t.issuedOps = s.issuedOps ++ lineOpsOf i ∧
        t = s.afterUnsampled c i := by
  obtain ⟨hb, he⟩ := hr
  have hrun := run_command he hc (opsOf_ne_nil (decodeCommand_isCommand hc))
  refine ⟨exec_of_decode hc hb, _, hrun, by simp [foldl_performed_issuedOps, lineOpsOf], ?_⟩
  rw [hresult, foldl_performed_of_unsampled hsample]
  simp [State.clearBusy, State.afterUnsampled, State.accept, Engine.accepting, lineOpsOf]

/-! ### The end states of CONFIGURE, START and STOP -/

/-- Settles O16: CONFIGURE samples nothing, and its list ends with both lines outputs and high (R120). -/
theorem configureCompletes : Obligations.ConfigureCompletes := fun _ hr =>
  unsampled_command_completes (i := .configure) hr (by decide) (by simp [lineOpsOf, opsOf, configureOps, lineOpOf])
    fun _ => rfl

/-- Settles O17: START samples nothing, and its list ends with SDA low under SCL high (R121). -/
theorem startCompletes : Obligations.StartCompletes := fun _ hr =>
  unsampled_command_completes (i := .start) hr (by decide) (by simp [lineOpsOf, opsOf, startOps, lineOpOf]) fun _ => rfl

/-- Settles O18: STOP samples nothing, and its list ends with both lines outputs and high (R122). -/
theorem stopCompletes : Obligations.StopCompletes := fun _ hr =>
  unsampled_command_completes (i := .stop) hr (by decide) (by simp [lineOpsOf, opsOf, stopOps, lineOpOf]) fun _ => rfl

/-- STOP ends idle from every ready state (R122, R123). -/
theorem stop_ends_idle {s : State} (hr : s.ready) :
    exec .stop s = .next (s.accept 0x0003#16) ∧ ∃ t, runFor 7 (s.accept 0x0003#16) = .next t ∧ t.ld = .idle := by
  obtain ⟨haccept, t, hrun, -, rfl⟩ := stopCompletes s hr
  exact ⟨haccept, _, hrun, rfl⟩

/-- Settles O54: START ends in a ready state, and STOP ends idle from every ready state. -/
theorem startThenStopLeavesIdle : Obligations.StartThenStopLeavesIdle := by
  intro s hr
  refine ⟨?_, ?_⟩
  · obtain ⟨haccept, u, hrun, -, hu⟩ := startCompletes s hr
    have hready : u.ready := by rw [hu]; exact ⟨rfl, hr.2⟩
    obtain ⟨hstop, v, hv, hidle⟩ := stop_ends_idle hready
    exact ⟨_, u, v, haccept, hrun, hready.1, hv, hstop, hidle⟩
  · obtain ⟨haccept, v, hrun, hidle⟩ := stop_ends_idle hr
    exact ⟨_, v, haccept, hrun, hidle⟩

/-! ### CONFIGURE from the idle latches -/

/-- A list whose templates all rewrite what the latches hold leaves them as they are. -/
theorem LineDriver.foldl_after_of_fixed {l : List Template} {ld : LineDriver} (h : ∀ p ∈ l, ld.after p = ld) :
    l.foldl LineDriver.after ld = ld := by
  induction l with
  | nil => rfl
  | cons p l ih =>
    obtain ⟨hp, hl⟩ := List.forall_mem_cons.mp h
    rw [List.foldl_cons, hp, ih hl]

/-- The bus sees no condition where neither the latches nor the peers move (R13, R39). -/
@[simp] theorem busCondition_self (ld : LineDriver) (peer : Bit) : busCondition ld peer ld peer = none := by
  have not_both : ¬(ld.busSda peer = 1#1 ∧ ld.busSda peer = 0#1) := fun ⟨hhigh, hlow⟩ =>
    absurd (hhigh.symm.trans hlow) (by decide)
  rw [busCondition, if_neg not_both, if_neg (mt And.symm not_both), ite_self]

/-- A list whose templates all rewrite what the latches hold makes no condition while the peers hold their level. -/
theorem conditionsOf_of_fixed {l : List Template} {ld : LineDriver} (h : ∀ p ∈ l, ld.after p = ld) (peer : Bit)
    (n : Nat) : conditionsOf (fun _ => peer) l n ld = [] := by
  induction l generalizing n with
  | nil => rfl
  | cons p l ih =>
    obtain ⟨hp, hl⟩ := List.forall_mem_cons.mp h
    simp [conditionsOf_cons, hp, ih hl]

/-- The latches along a command are those its list has set so far, up to and with its last line op (R102). -/
theorem run_command_ld {s : State} {c : Word} {i : Instr} {n : Nat} (he : s.events = []) (hc : decodeCommand c = .ok i)
    (hn : n ≤ (opsOf i).length) :
    ∃ t, runFor n (s.accept c) = .next t ∧ t.ld = ((opsOf i).take n).foldl LineDriver.after s.ld := by
  rcases Nat.lt_or_eq_of_le hn with hlt | rfl
  · exact ⟨_, run_command_part he hc hlt, by simp [foldl_performed_latches]⟩
  · exact ⟨_, run_command he hc (opsOf_ne_nil (decodeCommand_isCommand hc)), by simp [foldl_performed_latches]⟩

/-- Each line op of CONFIGURE rewrites what the idle latches hold (R124). -/
theorem configureOps_fix_idle : ∀ p ∈ configureOps, LineDriver.idle.after p = .idle := by decide

/-- Settles O53: the first CONFIGURE ends idle, and no line op of the second moves a latch that is idle. -/
theorem configureIsIdempotent : Obligations.ConfigureIsIdempotent := by
  intro s hr
  obtain ⟨-, t, hrun, -, ht⟩ := configureCompletes s hr
  have hidle : t.ld = .idle := by rw [ht]; rfl
  have hready : t.ready := by rw [ht]; exact ⟨rfl, hr.2⟩
  obtain ⟨haccept, -⟩ := configureCompletes t hready
  have hc : decodeCommand 0x0001#16 = .ok .configure := by decide
  have hstill {n : Nat} (hn : n ≤ 4) : ∃ w, runFor n (t.accept 0x0001#16) = .next w ∧ w.ld = t.ld := by
    obtain ⟨w, hw, hld⟩ := run_command_ld hready.2 hc hn
    refine ⟨w, hw, ?_⟩
    rw [hld, hidle]
    exact LineDriver.foldl_after_of_fixed fun p hp => configureOps_fix_idle p (List.mem_of_mem_take hp)
  have hconditions (peer : Bit) : busConditions (fun _ => peer) 4 0 (t.accept 0x0001#16) = [] :=
    calc busConditions (fun _ => peer) 4 0 (t.accept 0x0001#16)
      _ = conditionsOf (fun _ => peer) configureOps 0 t.ld := busConditions_command _ hready.2 hc
      _ = [] := by rw [hidle, conditionsOf_of_fixed configureOps_fix_idle]
  obtain ⟨v, hv, hvld⟩ := hstill le_rfl
  exact ⟨t, _, v, hrun, haccept, hv, hvld, hconditions, fun n hn => hstill hn⟩

/-! ### The table of R125 -/

/-- The conditions a list makes from the given latches while every peer releases SDA (R125). -/
def releasedConditions (l : List Template) (ld : LineDriver) : List (Nat × BusCondition) :=
  conditionsOf (fun _ => 1#1) l 0 ld

/-- The IDLE column of R125. -/
theorem releasedConditions_idle :
    releasedConditions configureOps .idle = [] ∧ releasedConditions startOps .idle = [(5, .start)] ∧
      releasedConditions stopOps .idle = [(2, .start), (5, .stop)] := by decide

/-- The STARTED column of R125. -/
theorem releasedConditions_started :
    releasedConditions configureOps .started = [(2, .stop)] ∧
      releasedConditions startOps .started = [(2, .stop), (5, .start)] ∧
      releasedConditions stopOps .started = [(5, .stop)] := by decide

/-- The columns AFTER_WRITE and AFTER_READ of R125 are alike: under SCL low the bus sees nothing of SDA's direction and level,
and SDA is brought to its level before SCL rises (R121, R122). -/
theorem releasedConditions_scl_low (d : Dir) (v : Bit) :
    releasedConditions configureOps ⟨d, v, .output, 0#1⟩ = [] ∧
      releasedConditions startOps ⟨d, v, .output, 0#1⟩ = [(5, .start)] ∧
      releasedConditions stopOps ⟨d, v, .output, 0#1⟩ = [(5, .stop)] := by
  cases d <;> (revert v; decide)

/-- Settles O50: the conditions of a run are those of the command's list, and the table is read off the three lists column
by column. -/
theorem startStopConditions : Obligations.StartStopConditions := by
  rintro s b0 k ⟨-, he⟩
  have hconfigure : busConditions (fun _ => 1#1) 4 0 (s.accept 0x0001#16) = releasedConditions configureOps s.ld :=
    busConditions_command (i := .configure) _ he (by decide)
  have hstart : busConditions (fun _ => 1#1) 7 0 (s.accept 0x0002#16) = releasedConditions startOps s.ld :=
    busConditions_command (i := .start) _ he (by decide)
  have hstop : busConditions (fun _ => 1#1) 7 0 (s.accept 0x0003#16) = releasedConditions stopOps s.ld :=
    busConditions_command (i := .stop) _ he (by decide)
  rw [hconfigure, hstart, hstop]
  refine ⟨?idle, ?started, ?afterByte⟩
  case idle =>
    intro hld
    rw [hld]
    exact releasedConditions_idle
  case started =>
    intro hld
    rw [hld]
    exact releasedConditions_started
  case afterByte =>
    rintro (hld | hld) <;> rw [hld]
    · exact releasedConditions_scl_low .input b0
    · exact releasedConditions_scl_low .output k

end Sys2Proof.Machine
end

section
/-! What a list of templates leaves of the whole state when it samples (spec/40_sequencer.md R103, R104). -/

namespace Sys2Proof.Machine

/-! ### The bits drawn -/

/-- Drawing `n` bits takes listed bits while there are any, and free ones after (R38). -/
theorem State.afterSamples_eq (s : State) (n : Nat) :
    s.afterSamples n = { s with samples := s.samples.drop n, draws := s.draws + (n - s.samples.length) } := by
  induction n with
  | zero => simp [afterSamples]
  | succ n ih =>
    have htail : s.samples.drop (n + 1) = (s.samples.drop n).tail := List.tail_drop.symm
    have hlength : (s.samples.drop n).length = s.samples.length - n := List.length_drop
    rw [afterSamples, ih, htail]
    unfold dropSample
    cases hs : s.samples.drop n with
    | nil =>
      have hdraws : s.draws + (n - s.samples.length) + 1 = s.draws + (n + 1 - s.samples.length) := by
        rw [hs, List.length_nil] at hlength
        omega
      simp [hdraws]
    | cons b bs =>
      have hdraws : n - s.samples.length = n + 1 - s.samples.length := by
        rw [hs, List.length_cons] at hlength
        omega
      simp [hdraws]

/-- How many of a list's templates sample (R109). -/
def sampleCount : List Template → Nat
  | [] => 0
  | .sampleData :: l | .sampleAck :: l => sampleCount l + 1
  | .hold _ :: l | .dirSda _ :: l | .dirScl _ :: l | .scl _ :: l | .sda _ :: l => sampleCount l

/-- Each template that samples issues a GET_SDA, and no other does (R109). -/
theorem sampleCount_cons (p : Template) (l : List Template) :
    sampleCount (p :: l) = sampleCount l + if lineOpOf p = .getSda then 1 else 0 := by
  cases p <;> rfl

theorem count_getSda (l : List Template) : (l.map lineOpOf).count .getSda = sampleCount l := by
  induction l with
  | nil => rfl
  | cons p l ih => rw [List.map_cons, List.count_cons, ih, sampleCount_cons]; simp

/-- The bits a list's samples will return. -/
def State.drawn (s : State) (l : List Template) : List Bit := s.nextSamples (sampleCount l)

/-- The first template's bit, if it samples, then those of the rest. -/
theorem State.drawn_cons (s : State) (p : Template) (l : List Template) :
    s.drawn (p :: l) = (if lineOpOf p = .getSda then [s.sampleAt 0] else []) ++ (s.performed p).drawn l := by
  by_cases hp : lineOpOf p = .getSda <;>
    simp [drawn, sampleCount_cons, nextSamples, performed_sampleAt, hp, List.range_succ_eq_map, Function.comp_def]

/-- A sample draws a bit, and no other template does. -/
theorem performed_draw (s : State) (p : Template) :
    (s.performed p).samples = (s.afterSamples (sampleCount [p])).samples ∧
      (s.performed p).draws = (s.afterSamples (sampleCount [p])).draws := by
  cases p with
  | hold | dirSda | dirScl | scl | sda => exact ⟨rfl, rfl⟩
  | sampleData | sampleAck => exact ⟨rfl, rfl⟩

/-- A list draws one bit for each of its samples. -/
theorem foldl_performed_draw (l : List Template) (s : State) :
    (l.foldl State.performed s).samples = (s.afterSamples (sampleCount l)).samples ∧
      (l.foldl State.performed s).draws = (s.afterSamples (sampleCount l)).draws := by
  induction l generalizing s with
  | nil => exact ⟨rfl, rfl⟩
  | cons p l ih =>
    obtain ⟨hsamples, hdraws⟩ := performed_draw s p
    obtain ⟨ihsamples, ihdraws⟩ := ih (s.performed p)
    have hcount : sampleCount (p :: l) = sampleCount [p] + sampleCount l := by
      rw [sampleCount_cons, sampleCount_cons p [], Nat.add_comm, sampleCount, Nat.zero_add]
    rw [List.foldl_cons, ihsamples, ihdraws, hcount, ← State.afterSamples_add, State.afterSamples_eq,
      State.afterSamples_eq _ (sampleCount l), hsamples, hdraws]
    exact ⟨rfl, rfl⟩

/-! ### The registers a sample goes to -/

/-- The templates that sample (R109). -/
theorem lineOpOf_eq_getSda_iff (p : Template) : lineOpOf p = .getSda ↔ p = .sampleData ∨ p = .sampleAck := by
  cases p <;> simp [lineOpOf]

/-- A sample leaves its bit on lop_sda (R57). -/
theorem performed_lopSda (s : State) (p : Template) :
    (s.performed p).lopSda = if lineOpOf p = .getSda then s.sampleAt 0 else s.lopSda := by
  cases p <;> simp [State.performed, State.drive, lineOpOf, State.sampleAt, State.afterSamples]

/-- A list leaves on lop_sda the last bit it samples. -/
theorem foldl_performed_lopSda (l : List Template) (s : State) :
    (l.foldl State.performed s).lopSda = (s.drawn l).getLastD s.lopSda := by
  induction l generalizing s with
  | nil => rfl
  | cons p l ih =>
    rw [List.foldl_cons, ih, State.drawn_cons, performed_lopSda]
    split
    · rw [List.singleton_append, List.getLastD_cons]
    · rfl

/-- A byte with one more bit shifted in at its low end (R104). -/
def shiftBit (r : Byte) (b : Bit) : Byte := (r <<< 1) ||| b.setWidth 8

/-- What one template leaves of the engine (R103, R104). -/
theorem performed_engine (s : State) (p : Template) :
    (s.performed p).engine = { s.engine with
      step := s.engine.step + 1
      shift := if p = .sampleData then shiftBit s.engine.shift (s.sampleAt 0) else s.engine.shift
      ackBit := if p = .sampleAck then s.sampleAt 0 else s.engine.ackBit } := by
  cases p with
  | hold | dirSda | dirScl | scl | sda => rfl
  | sampleData | sampleAck =>
    simp [State.performed, State.drive, State.advance, State.route, State.shiftIn, State.latchAck, shiftBit,
      State.sampleAt, State.afterSamples]

/-- A list without SAMPLE_ACK shifts the bits it samples into E.SHIFT (R104). -/
theorem foldl_performed_engine_of_no_ack {l : List Template} (hl : .sampleAck ∉ l) (s : State) :
    (l.foldl State.performed s).engine =
      { s.engine with step := s.engine.step + l.length, shift := (s.drawn l).foldl shiftBit s.engine.shift } := by
  induction l generalizing s with
  | nil => rfl
  | cons p l ih =>
    have hack : p ≠ .sampleAck := (List.ne_of_not_mem_cons hl).symm
    rw [List.foldl_cons, ih (List.not_mem_of_not_mem_cons hl), State.drawn_cons, performed_engine]
    by_cases hdata : p = .sampleData <;>
      simp [lineOpOf_eq_getSda_iff, hdata, hack, Nat.add_right_comm, Nat.add_assoc]

/-- A list without SAMPLE_DATA leaves in E.ACKBIT the last bit it samples (R104). -/
theorem foldl_performed_engine_of_no_data {l : List Template} (hl : .sampleData ∉ l) (s : State) :
    (l.foldl State.performed s).engine =
      { s.engine with step := s.engine.step + l.length, ackBit := (s.drawn l).getLastD s.engine.ackBit } := by
  induction l generalizing s with
  | nil => rfl
  | cons p l ih =>
    have hdata : p ≠ .sampleData := (List.ne_of_not_mem_cons hl).symm
    rw [List.foldl_cons, ih (List.not_mem_of_not_mem_cons hl), State.drawn_cons, performed_engine]
    by_cases hack : p = .sampleAck <;>
      simp [lineOpOf_eq_getSda_iff, hdata, hack, List.getLastD_cons, -List.getLastD_eq_getLast?, Nat.add_right_comm,
        Nat.add_assoc]

/-- The status word and the outside's queues are out of reach of a list's templates (R51, R103). -/
theorem foldl_performed_frame (l : List Template) (s : State) :
    (l.foldl State.performed s).status = s.status ∧ (l.foldl State.performed s).offers = s.offers ∧
      (l.foldl State.performed s).events = s.events := by
  induction l generalizing s with
  | nil => exact ⟨rfl, rfl, rfl⟩
  | cons p l ih =>
    have hp : (s.performed p).status = s.status ∧ (s.performed p).offers = s.offers := by
      cases p <;> simp [State.performed, State.drive]
    rw [List.foldl_cons]
    simpa only [hp, State.performed_events] using ih (s.performed p)

/-- The whole state after a list: the bits drawn, the latches and the observation it adds are read off the list, and
beyond them only the engine's registers have moved (R103, R236). -/
theorem foldl_performed_eq (l : List Template) (s : State) :
    l.foldl State.performed s = { s.afterSamples (sampleCount l) with
      engine := (l.foldl State.performed s).engine
      ld := l.foldl LineDriver.after s.ld
      lopSda := (s.drawn l).getLastD s.lopSda
      trace := (observe (l.map lineOpOf) (s.drawn l)).reverse ++ s.trace } := by
  obtain ⟨hsamples, hdraws⟩ := foldl_performed_draw l s
  obtain ⟨hstatus, hoffers, hevents⟩ := foldl_performed_frame l s
  have htrace := foldl_performed_trace l s
  rw [count_getSda] at htrace
  have hld := foldl_performed_latches l s
  have hlop := foldl_performed_lopSda l s
  rw [State.afterSamples_eq] at hsamples hdraws ⊢
  rw [State.mk.injEq]
  exact ⟨rfl, hstatus, hld, hlop, hoffers, hevents, hsamples, hdraws, htrace⟩

end Sys2Proof.Machine
end

section
/-! WRITE_BYTE and READ_BYTE (spec/42_byte_transfer.md): the lists and what a run of each leaves. -/

namespace Sys2Proof.Machine

/-! ### Acceptance and the samples -/

@[simp] theorem State.accept_afterSamples (s : State) (c : Word) (n : Nat) :
    (s.accept c).afterSamples n = (s.afterSamples n).accept c := by
  rw [afterSamples_eq, afterSamples_eq]
  rfl

/-- Acceptance draws no bit, so the coming bits are those of the state before it (R100). -/
@[simp] theorem State.accept_drawn (s : State) (c : Word) (l : List Template) : (s.accept c).drawn l = s.drawn l := by
  simp [drawn, nextSamples, sampleAt, nextSample]

/-- The state `s` once the templates of the command `i` have been performed and its result written, with the engine's
registers `e` as the templates leave them (R103 to R105). -/
def State.afterCommand (s : State) (i : Instr) (e : Engine) : State :=
  ({ s.afterSamples (sampleCount (opsOf i)) with
      engine := e
      status := { s.status with illegal := false }
      ld := (opsOf i).foldl LineDriver.after s.ld
      lopSda := (s.drawn (opsOf i)).getLastD s.lopSda
      trace := (observe (lineOpsOf i) (s.drawn (opsOf i))).reverse ++ s.trace }.writeResult i).clearBusy

/-- Every command completes from every ready state: it is accepted, and the run of its list issues its line ops and
leaves what the list says, but for the engine's registers (R100, R103 to R105). -/
theorem command_completes {i : Instr} {c : Word} {s : State} (hr : s.ready) (hc : decodeCommand c = .ok i) :
    exec i s = .next (s.accept c) ∧
      ∃ t, runFor (opsOf i).length (s.accept c) = .next t ∧ t.issuedOps = s.issuedOps ++ lineOpsOf i ∧
        t = s.afterCommand i ((opsOf i).foldl State.performed (s.accept c)).engine := by
  obtain ⟨hb, he⟩ := hr
  have hrun := run_command he hc (opsOf_ne_nil (decodeCommand_isCommand hc))
  refine ⟨exec_of_decode hc hb, _, hrun, by simp [foldl_performed_issuedOps, lineOpsOf], ?_⟩
  rw [foldl_performed_eq, State.accept_drawn, State.accept_afterSamples, State.afterCommand, State.afterSamples_eq]
  rfl

/-! ### The bits of a byte shifted in -/

/-- The bit shifted in last stands at the low end (R104). -/
theorem bitAt_shiftBit_zero (r : Byte) (b : Bit) : bitAt (shiftBit r b) 0 = b := by
  ext k hk
  obtain rfl : k = 0 := by omega
  simp [bitAt, shiftBit]

/-- Shifting a bit in moves every other bit up by one (R104). -/
theorem bitAt_shiftBit_succ (r : Byte) (b : Bit) {i : Nat} (hi : i + 1 < 8) :
    bitAt (shiftBit r b) (i + 1) = bitAt r i := by
  ext k hk
  obtain rfl : k = 0 := by omega
  simp [bitAt, shiftBit, hi]
  exact (BitVec.getLsbD_eq_getElem _).symm

/-- Of up to eight bits shifted in, the first stands highest and the last at the low end (R104, R137). -/
theorem bitAt_foldl_shiftBit (f : Nat → Bit) (r : Byte) {n j : Nat} (hn : n ≤ 8) (hj : j < n) :
    bitAt (((List.range n).map f).foldl shiftBit r) (n - 1 - j) = f j := by
  induction n with
  | zero => omega
  | succ n ih =>
    rw [List.range_succ, List.map_append, List.foldl_append]
    rcases Nat.lt_succ_iff_lt_or_eq.mp hj with hlt | rfl
    · have hindex : n + 1 - 1 - j = (n - 1 - j) + 1 := by omega
      rw [hindex]
      exact (bitAt_shiftBit_succ _ _ (by omega)).trans (ih (by omega) hlt)
    · rw [Nat.add_sub_cancel, Nat.sub_self]
      exact bitAt_shiftBit_zero _ _

/-! ### WRITE_SEQ -/

/-- The state `s` once a WRITE_SEQ of `b` under the word `c` has run from its acceptance to its end (R132). -/
def State.afterWriteSeq (s : State) (c : Word) (b : Byte) : State :=
  { s.afterSamples 1 with
    engine := { busy := false, cmd := c, step := 57, shift := 0x00#8, ackBit := s.sampleAt 0 }
    status := { ack := s.sampleAt 0, illegal := false, rxData := s.status.rxData }
    ld := { sdaDir := .input, sdaLvl := bitAt b 0, sclDir := s.ld.sclDir, sclLvl := 0#1 }
    lopSda := s.sampleAt 0
    trace := (observe (writeByteLineOps b) [s.sampleAt 0]).reverse ++ s.trace }

@[simp] theorem length_writeSeq (b : Byte) : (writeSeq b).length = 57 := rfl

/-- WRITE_SEQ's line ops are those of R130 to R132. -/
theorem map_lineOpOf_writeSeq (b : Byte) : (writeSeq b).map lineOpOf = writeByteLineOps b := rfl

/-- WRITE_SEQ leaves SDA to the peers, with the last bit in its latch, and SCL low (R131, R132). -/
theorem foldl_after_writeSeq (b : Byte) (l : LineDriver) :
    (writeSeq b).foldl LineDriver.after l = ⟨.input, bitAt b 0, l.sclDir, 0#1⟩ := rfl

/-- WRITE_SEQ samples once, for the acknowledge (R131). -/
theorem sampleCount_writeSeq (b : Byte) : sampleCount (writeSeq b) = 1 := rfl

theorem State.drawn_writeSeq (s : State) (b : Byte) : s.drawn (writeSeq b) = [s.sampleAt 0] := by
  rw [drawn, sampleCount_writeSeq]
  rfl

/-- WRITE_SEQ samples no data (R132). -/
theorem sampleData_not_mem_writeSeq (b : Byte) : .sampleData ∉ writeSeq b := by
  simp [writeSeq, setDir, bitsOut, bitOut, endOfBits, recvAck]

/-- A command whose list is WRITE_SEQ and whose result is the acknowledge completes from every ready state
(R132, R136). -/
theorem writeSeq_command_completes {i : Instr} {c : Word} {b : Byte} {s : State} (hr : s.ready)
    (hc : decodeCommand c = .ok i) (hops : opsOf i = writeSeq b) (hresult : ∀ t : State, t.writeResult i = t.writeAck) :
    exec i s = .next (s.accept c) ∧
      ∃ t, runFor 57 (s.accept c) = .next t ∧ t.issuedOps = s.issuedOps ++ writeByteLineOps b ∧
        t = s.afterWriteSeq c b := by
  have h := command_completes hr hc
  rw [State.afterCommand, hresult, lineOpsOf, hops,
    foldl_performed_engine_of_no_data (sampleData_not_mem_writeSeq b), State.accept_drawn, State.drawn_writeSeq,
    map_lineOpOf_writeSeq, foldl_after_writeSeq, length_writeSeq, sampleCount_writeSeq, State.afterSamples_eq] at h
  rw [State.afterWriteSeq, State.afterSamples_eq]
  exact h

/-- Settles O19: WRITE_BYTE's list is the WRITE_SEQ of its byte. -/
theorem writeByteCompletes : Obligations.WriteByteCompletes := fun _ b hr =>
  writeSeq_command_completes hr (decodeCommand_wordWriteByte b) rfl fun _ => rfl

/-! ### READ_SEQ -/

@[simp] theorem length_readSeq (k : Bit) : (readSeq k).length = 50 := rfl

/-- READ_SEQ's line ops are those of R133 to R135. -/
theorem map_lineOpOf_readSeq (k : Bit) : (readSeq k).map lineOpOf = readByteLineOps k := rfl

/-- READ_SEQ leaves SDA an output that holds the acknowledge, and SCL low (R134, R135). -/
theorem foldl_after_readSeq (k : Bit) (l : LineDriver) :
    (readSeq k).foldl LineDriver.after l = ⟨.output, k, l.sclDir, 0#1⟩ := rfl

/-- READ_SEQ samples eight times, once for each bit (R133, R135). -/
theorem sampleCount_readSeq (k : Bit) : sampleCount (readSeq k) = 8 := rfl

theorem State.drawn_readSeq (s : State) (k : Bit) : s.drawn (readSeq k) = (List.range 8).map s.sampleAt := by
  rw [drawn, sampleCount_readSeq, nextSamples]

/-- READ_SEQ samples no acknowledge: it sends one (R134, R135). -/
theorem sampleAck_not_mem_readSeq (k : Bit) : .sampleAck ∉ readSeq k := by
  simp [readSeq, setDir, repeatOps, bitIn, endOfBits, sendAck]

/-- Settles O20: READ_BYTE's list shifts in the eight bits it samples. -/
theorem readByteCompletes : Obligations.ReadByteCompletes := by
  intro s k hr
  obtain ⟨haccept, t, hrun, hissued, ht⟩ := command_completes hr (decodeCommand_wordReadByte k)
  refine ⟨haccept, t, ((List.range 8).map s.sampleAt).foldl shiftBit 0x00#8, ?_, ?_, ?_, ?_⟩
  · rwa [opsOf, length_readSeq] at hrun
  · exact fun j hj => bitAt_foldl_shiftBit s.sampleAt 0x00#8 le_rfl hj
  · rwa [lineOpsOf, opsOf, map_lineOpOf_readSeq] at hissued
  · rw [ht, State.afterCommand, lineOpsOf, opsOf, foldl_performed_engine_of_no_ack (sampleAck_not_mem_readSeq k),
      State.accept_drawn, State.drawn_readSeq, map_lineOpOf_readSeq, foldl_after_readSeq, length_readSeq,
      sampleCount_readSeq, State.afterSamples_eq]
    rfl

/-- From its SDA(k) on, READ_SEQ holds the acknowledge on SDA, with SCL high for the two templates of the acknowledge
clock (R134, R138). -/
theorem foldl_after_take_readSeq (k : Bit) (l : LineDriver) {n : Nat} (hlo : 46 ≤ n) (hhi : n ≤ 50) :
    ((readSeq k).take n).foldl LineDriver.after l =
      ⟨.output, k, l.sclDir, if n = 48 ∨ n = 49 then 1#1 else 0#1⟩ := by
  interval_cases n <;> rfl

/-- Settles O49: the latches along the run are those the list has set so far. -/
theorem acknowledgeHeldThroughItsClock : Obligations.AcknowledgeHeldThroughItsClock := by
  rintro s k n ⟨hb, he⟩ hlo hhi
  have hc := decodeCommand_wordReadByte k
  obtain ⟨t, hrun, hld⟩ := run_command_ld he hc hhi
  rw [opsOf, foldl_after_take_readSeq k s.ld hlo hhi] at hld
  refine ⟨_, t, exec_of_decode hc hb, hrun, by rw [hld], by rw [hld], fun hn => ?_⟩
  rw [hld, if_pos hn]

/-! ### The positions -/

/-- Settles O30: both lists are written out template by template, and each bit's templates are read off them. -/
theorem byteSequencePositions : Obligations.ByteSequencePositions := by
  refine ⟨fun b => ⟨length_writeSeq b, rfl, fun i hi => ?_, rfl⟩, fun k => ⟨length_readSeq k, rfl, fun j hj => ?_, rfl⟩⟩
  · interval_cases i <;> rfl
  · interval_cases j <;> rfl

end Sys2Proof.Machine
end

section
/-! SDA moves only while SCL is low in a byte command, past its first line op (spec/42_byte_transfer.md R140), and what
the bus sees of that. -/

namespace Sys2Proof.Machine

/-! ### Lists that move SDA under SCL low -/

/-- The SDA ops: a level or a direction (R140). -/
def Template.movesSda : Template → Bool
  | .sda _ | .dirSda _ => true
  | .hold _ | .dirScl _ | .scl _ | .sampleData | .sampleAck => false

/-- Whether every SDA op of a list comes while SCL's latch is 0, from the given level of that latch, with SCL's
direction left alone (R140). -/
def sdaUnderSclLow : Bit → List Template → Bool
  | _, [] => true
  | _, .scl v :: l => sdaUnderSclLow v l
  | scl, .sda _ :: l | scl, .dirSda _ :: l => scl == 0#1 && sdaUnderSclLow scl l
  | scl, .hold _ :: l | scl, .sampleData :: l | scl, .sampleAck :: l => sdaUnderSclLow scl l
  | _, .dirScl _ :: _ => false

/-- Such a list's first template, and the rest from the latches it leaves. -/
theorem sdaUnderSclLow_cons {p : Template} {l : List Template} {ld : LineDriver}
    (h : sdaUnderSclLow ld.sclLvl (p :: l) = true) :
    (p.movesSda = true → ld.sclLvl = 0#1) ∧ (ld.after p).sclDir = ld.sclDir ∧
      sdaUnderSclLow (ld.after p).sclLvl l = true := by
  cases p with
  | sda v | dirSda d =>
    obtain ⟨hscl, hl⟩ : ld.sclLvl = 0#1 ∧ sdaUnderSclLow ld.sclLvl l = true := by simpa [sdaUnderSclLow] using h
    exact ⟨fun _ => hscl, rfl, hl⟩
  | hold | scl | sampleData | sampleAck => exact ⟨nofun, rfl, h⟩
  | dirScl d => cases h

/-- An SDA op of such a list finds SCL's latch at 0 (R140). -/
theorem sclLvl_of_sdaUnderSclLow {l : List Template} {ld : LineDriver} {n : Nat} {p : Template}
    (h : sdaUnderSclLow ld.sclLvl l = true) (hp : l[n]? = some p) (hmoves : p.movesSda = true) :
    ((l.take n).foldl LineDriver.after ld).sclLvl = 0#1 := by
  induction l generalizing n ld with
  | nil => cases hp
  | cons q l ih =>
    obtain ⟨hscl, -, hl⟩ := sdaUnderSclLow_cons h
    cases n with
    | zero =>
      obtain rfl : q = p := by simpa using hp
      exact hscl hmoves
    | succ n => exact ih hl hp

/-- Only an SDA op moves what the master drives on SDA. -/
theorem LineDriver.after_masterSda {p : Template} (hp : p.movesSda = false) (ld : LineDriver) :
    (ld.after p).masterSda = ld.masterSda := by
  cases p with
  | sda | dirSda => cases hp
  | hold | dirScl | scl | sampleData | sampleAck => rfl

/-- The bus sees no condition where SCL is low before (R13). -/
theorem busCondition_of_scl_low {l : LineDriver} (hdir : l.sclDir = .output) (hlvl : l.sclLvl = 0#1) (peer peer' : Bit)
    (l' : LineDriver) : busCondition l peer l' peer' = none := by
  simp [busCondition, LineDriver.busScl, LineDriver.masterScl, hdir, hlvl]

/-- The bus sees no condition where its SDA keeps its level (R13). -/
theorem busCondition_of_sda_still {l l' : LineDriver} {peer peer' : Bit} (h : l'.busSda peer' = l.busSda peer) :
    busCondition l peer l' peer' = none := by
  have not_both : ¬(l.busSda peer = 1#1 ∧ l.busSda peer = 0#1) := fun ⟨hhigh, hlow⟩ =>
    absurd (hhigh.symm.trans hlow) (by decide)
  rw [busCondition, h, if_neg not_both, if_neg (mt And.symm not_both), ite_self]

/-- A list that moves SDA only under SCL low makes no condition while the peers hold their level (R140). -/
theorem conditionsOf_of_sdaUnderSclLow {l : List Template} {ld : LineDriver} (hdir : ld.sclDir = .output)
    (h : sdaUnderSclLow ld.sclLvl l = true) (peer : Bit) (n : Nat) : conditionsOf (fun _ => peer) l n ld = [] := by
  induction l generalizing n ld with
  | nil => rfl
  | cons p l ih =>
    obtain ⟨hscl, hkept, hl⟩ := sdaUnderSclLow_cons h
    have hnone : busCondition ld peer (ld.after p) peer = none := by
      cases hp : p.movesSda with
      | true => exact busCondition_of_scl_low hdir (hscl hp) ..
      | false => exact busCondition_of_sda_still (by rw [LineDriver.busSda, LineDriver.after_masterSda hp]; rfl)
    rw [conditionsOf_cons, hnone, ih (hkept.trans hdir) hl]
    rfl

/-! ### The byte commands -/

/-- Past the direction op it begins with, WRITE_SEQ moves SDA only under SCL low, whatever SCL's latch before
(R132, R140). -/
theorem sdaUnderSclLow_writeSeq (b : Byte) (scl : Bit) : sdaUnderSclLow scl (writeSeq b).tail = true := rfl

/-- The same of READ_SEQ (R135, R140). -/
theorem sdaUnderSclLow_readSeq (k scl : Bit) : sdaUnderSclLow scl (readSeq k).tail = true := rfl

theorem writeSeq_eq_cons (b : Byte) : writeSeq b = .dirSda .output :: (writeSeq b).tail := rfl

theorem readSeq_eq_cons (k : Bit) : readSeq k = .dirSda .input :: (readSeq k).tail := rfl

/-- A byte or address command is a direction op and then a list that moves SDA only under SCL low (R140). -/
theorem opsOf_byteCommand {i : Instr}
    (hi : (∃ b, i = .writeByte b) ∨ (∃ k, i = .readByte k) ∨ (∃ a, i = .writeAddress a) ∨ (∃ a, i = .readAddress a)) :
    i.isCommand = true ∧ ∃ d l, opsOf i = .dirSda d :: l ∧ ∀ scl, sdaUnderSclLow scl l = true := by
  rcases hi with ⟨b, rfl⟩ | ⟨k, rfl⟩ | ⟨a, rfl⟩ | ⟨a, rfl⟩
  · exact ⟨rfl, _, _, writeSeq_eq_cons b, sdaUnderSclLow_writeSeq b⟩
  · exact ⟨rfl, _, _, readSeq_eq_cons k, sdaUnderSclLow_readSeq k⟩
  · exact ⟨rfl, _, _, writeSeq_eq_cons _, sdaUnderSclLow_writeSeq _⟩
  · exact ⟨rfl, _, _, writeSeq_eq_cons _, sdaUnderSclLow_writeSeq _⟩

/-- Settles O48: the latches before position `n` are those the list has set so far, and past its direction op the list
moves SDA only under SCL low. -/
theorem sdaMovesOnlyWhileSclLow : Obligations.SdaMovesOnlyWhileSclLow := by
  rintro s i n ⟨hb, he⟩ hi hpos hsda
  obtain ⟨hcommand, d, l, hops, hlow⟩ := opsOf_byteCommand hi
  obtain ⟨c, hc, haccept⟩ := exec_command_accepts hcommand hb
  obtain ⟨p, hp, hmoves⟩ : ∃ p, (opsOf i)[n]? = some p ∧ p.movesSda = true := by
    rcases hsda with ⟨v, hv⟩ | ⟨d, hd⟩
    · exact ⟨_, hv, rfl⟩
    · exact ⟨_, hd, rfl⟩
  have hn : n < (opsOf i).length := (List.getElem?_eq_some_iff.mp hp).1
  refine ⟨_, _, haccept, run_command_part he hc hn, ?_, ?_⟩
  · simp [State.template?, ops_of_decode hc, Nat.le_of_lt hn]
  · obtain ⟨m, rfl⟩ := Nat.exists_eq_add_of_le' hpos
    rw [foldl_performed_latches, hops, List.take_succ_cons, List.foldl_cons]
    rw [hops, List.getElem?_cons_succ] at hp
    exact sclLvl_of_sdaUnderSclLow (hlow _) hp hmoves

/-! ### The conditions of the byte commands -/

/-- What the bus sees when SDA's direction is set, with every peer releasing SDA. -/
def directionCondition (ld : LineDriver) (d : Dir) : Option BusCondition :=
  busCondition ld 1#1 (ld.after (.dirSda d)) 1#1

/-- A list that sets SDA's direction and then moves SDA only under SCL low makes no condition but that of its first
op. -/
theorem conditionsOf_dirSda_cons {d : Dir} {l : List Template} {ld : LineDriver} (hdir : ld.sclDir = .output)
    (h : sdaUnderSclLow ld.sclLvl l = true) :
    conditionsOf (fun _ => 1#1) (.dirSda d :: l) 0 ld = (directionCondition ld d).toList.map fun c => (0, c) := by
  rw [conditionsOf_cons, conditionsOf_of_sdaUnderSclLow (ld := ld.after (.dirSda d)) hdir h, List.append_nil]
  rfl

/-- The conditions of a command whose list is WRITE_SEQ (R140). -/
theorem busConditions_writeSeq_command {s : State} {c : Word} {i : Instr} {b : Byte} (he : s.events = [])
    (hdir : s.ld.sclDir = .output) (hc : decodeCommand c = .ok i) (hops : opsOf i = writeSeq b) :
    busConditions (fun _ => 1#1) 57 0 (s.accept c) = (directionCondition s.ld .output).toList.map fun c => (0, c) := by
  rw [← length_writeSeq b, ← hops, busConditions_command _ he hc, hops, writeSeq_eq_cons]
  exact conditionsOf_dirSda_cons hdir (sdaUnderSclLow_writeSeq b _)

/-- The conditions of READ_BYTE (R140). -/
theorem busConditions_readByte {s : State} (k : Bit) (he : s.events = []) (hdir : s.ld.sclDir = .output) :
    busConditions (fun _ => 1#1) 50 0 (s.accept (wordReadByte k)) =
      (directionCondition s.ld .input).toList.map fun c => (0, c) := by
  have hrun := busConditions_command (fun _ => 1#1) he (decodeCommand_wordReadByte k)
  rw [opsOf, length_readSeq, readSeq_eq_cons] at hrun
  exact hrun.trans (conditionsOf_dirSda_cons hdir (sdaUnderSclLow_readSeq k _))

/-- A named state that is not STARTED either has SDA high under SCL high or SCL low, so the bus sees nothing of SDA's
direction (R125, R140). -/
theorem directionCondition_of_not_started {ld : LineDriver} {b0 k : Bit}
    (h : ld = .idle ∨ ld = .afterWrite b0 ∨ ld = .afterRead k) (d : Dir) :
    ld.sclDir = .output ∧ directionCondition ld d = none := by
  rcases h with rfl | rfl | rfl
  · exact ⟨rfl, by cases d <;> decide⟩
  · exact ⟨rfl, busCondition_of_scl_low rfl rfl ..⟩
  · exact ⟨rfl, busCondition_of_scl_low rfl rfl ..⟩

/-- From STARTED, SDA low under SCL high: keeping it an output changes nothing, and its release is a STOP (R140). -/
theorem directionCondition_started :
    directionCondition .started .output = none ∧ directionCondition .started .input = some .stop := by decide

/-- Settles O51: past its direction op a byte command moves SDA only under SCL low, so that op alone can make a
condition. -/
theorem byteCommandsMakeNoCondition : Obligations.ByteCommandsMakeNoCondition := by
  rintro s b a b0 k k' ⟨-, he⟩
  refine ⟨fun hld => ?write, fun hld => ?read, fun hld => ?readStarted⟩
  case write =>
    obtain ⟨hdir, hnone⟩ : s.ld.sclDir = .output ∧ directionCondition s.ld .output = none := by
      rcases hld with hld | hld | hld
      · exact directionCondition_of_not_started (b0 := b0) (k := k) (.inl hld) _
      · rw [hld]
        exact ⟨rfl, directionCondition_started.1⟩
      · exact directionCondition_of_not_started (.inr hld) _
    have silent {c : Word} {i : Instr} {b : Byte} (hc : decodeCommand c = .ok i) (hops : opsOf i = writeSeq b) :
        busConditions (fun _ => 1#1) 57 0 (s.accept c) = [] := by
      rw [busConditions_writeSeq_command he hdir hc hops, hnone]
      rfl
    exact ⟨silent (decodeCommand_wordWriteByte b) rfl, silent (decodeCommand_wordWriteAddress a) rfl,
      silent (decodeCommand_wordReadAddress a) rfl⟩
  case read =>
    obtain ⟨hdir, hnone⟩ := directionCondition_of_not_started hld .input
    have hrun := busConditions_readByte k' he hdir
    rw [hnone] at hrun
    exact hrun
  case readStarted =>
    have hrun := busConditions_readByte k' he (by rw [hld]; rfl)
    obtain ⟨-, hinput⟩ := directionCondition_started
    rw [hld, hinput] at hrun
    exact hrun

end Sys2Proof.Machine
end

section
/-! BUS_RESET (spec/43_bus_recovery.md): its end state, its pulses, and what the bus sees of it. -/

namespace Sys2Proof.Machine

/-! ### The end state -/

/-- Settles O23: BUS_RESET samples nothing and writes no result, and its list ends with STOP's, which leaves both lines
outputs and high (R122, R151). -/
theorem busResetCompletes : Obligations.BusResetCompletes := fun _ hr =>
  unsampled_command_completes (i := .busReset) hr (by decide)
    (by simp [lineOpsOf, opsOf, busResetOps, linesHigh, repeatOps, pulse, startOps, stopOps, lineOpOf]) fun _ => rfl

/-! ### The pulses -/

/-- BUS_RESET's last `r` pulses, then START's list and STOP's (R151). -/
def pulsesThenStartStop (r : Nat) : List Template := repeatOps r pulse ++ (startOps ++ stopOps)

/-- BUS_RESET from its first line op to the one before the HOLD(BR_HIGH) of pulse `q`, counted from 0 (R150, R151). -/
def untilPulseHigh (q : Nat) : List Template :=
  linesHigh ++ repeatOps q pulse ++ [.scl 0#1, .hold .brLow, .scl 1#1]

theorem repeatOps_succ (n : Nat) (l : List Template) : repeatOps (n + 1) l = l ++ repeatOps n l := rfl

theorem repeatOps_add (m n : Nat) (l : List Template) : repeatOps (m + n) l = repeatOps m l ++ repeatOps n l := by
  rw [repeatOps, List.replicate_add, List.flatten_append]
  rfl

@[simp] theorem length_repeatOps (n : Nat) (l : List Template) : (repeatOps n l).length = n * l.length := by
  simp [repeatOps]

@[simp] theorem length_untilPulseHigh (q : Nat) : (untilPulseHigh q).length = 7 + 4 * q := by
  simp [untilPulseHigh, linesHigh, pulse]
  omega

/-- BUS_RESET around the first line op of a pulse, with `q` pulses before it (R150, R151). -/
theorem busResetOps_at_pulse {q r : Nat} (hqr : q + r = 9) :
    busResetOps = (linesHigh ++ repeatOps q pulse) ++ pulsesThenStartStop r := by
  have hpulses : repeatOps Config.recoveryPulses pulse = repeatOps q pulse ++ repeatOps r pulse := by
    rw [← repeatOps_add, hqr]
    rfl
  simp [busResetOps, hpulses, pulsesThenStartStop]

/-- BUS_RESET around the HOLD(BR_HIGH) of one of its pulses (R150, R151). -/
theorem busResetOps_at_pulseHigh {q r : Nat} (hqr : q + r = 8) :
    busResetOps = untilPulseHigh q ++ .hold .brHigh :: pulsesThenStartStop r := by
  have hqr' : q + (r + 1) = 9 := by omega
  simp [busResetOps_at_pulse hqr', untilPulseHigh, pulsesThenStartStop, repeatOps_succ, pulse]

/-- BUS_RESET brings both lines high, as CONFIGURE does, and goes on with its nine pulses (R151). -/
theorem busResetOps_eq : busResetOps = configureOps ++ pulsesThenStartStop 9 := rfl

/-- BUS_RESET from the first line op of pulse `q` on (R150, R151). -/
theorem drop_busResetOps {q r : Nat} (hqr : q + r = 9) : busResetOps.drop (4 + 4 * q) = pulsesThenStartStop r := by
  rw [busResetOps_at_pulse hqr]
  exact List.drop_left' (by simp [linesHigh, pulse]; omega)

/-- Settles O31: a pulse is at the head of what is left while any is left, and the counts are read off the lists. -/
theorem recoveryPulseCount : Obligations.RecoveryPulseCount := by
  refine ⟨fun p hp => ?_, rfl, by decide, rfl, by decide, by decide, by decide⟩
  obtain ⟨r, hr⟩ : ∃ r, p + (r + 1) = 9 := ⟨8 - p, by omega⟩
  rw [opsOf, drop_busResetOps hr, pulsesThenStartStop, repeatOps_succ]
  rfl

/-! ### The latches -/

/-- The first four line ops bring the latches to IDLE, whatever they were (R120, R151). -/
theorem foldl_after_configureOps (ld : LineDriver) : configureOps.foldl LineDriver.after ld = .idle := rfl

/-- A pulse ends with the latches it finds, if these are idle (R150). -/
theorem foldl_after_repeat_pulse (r : Nat) : (repeatOps r pulse).foldl LineDriver.after .idle = .idle := by
  induction r with
  | zero => rfl
  | succ r ih =>
    rw [repeatOps_succ, List.foldl_append]
    exact ih

/-- In the HOLD(BR_HIGH) of a pulse the latches are idle (R150, R151). -/
theorem foldl_after_untilPulseHigh (q : Nat) (ld : LineDriver) :
    (untilPulseHigh q).foldl LineDriver.after ld = .idle := by
  have hlines : linesHigh.foldl LineDriver.after ld = .idle := rfl
  rw [untilPulseHigh, List.foldl_append, List.foldl_append, hlines, foldl_after_repeat_pulse]
  rfl

/-! ### The peers' levels along a list -/

/-- The conditions of a list depend on the peers' levels before and after its own line ops only (R13). -/
theorem conditionsOf_congr {peer peer' : Nat → Bit} {l : List Template} {n : Nat} (ld : LineDriver)
    (h : ∀ m, n ≤ m → m ≤ n + l.length → peer m = peer' m) : conditionsOf peer l n ld = conditionsOf peer' l n ld := by
  induction l generalizing n ld with
  | nil => rfl
  | cons p l ih =>
    rw [List.length_cons] at h
    have hbefore : peer n = peer' n := h n (by omega) (by omega)
    have hafter : peer (n + 1) = peer' (n + 1) := h (n + 1) (by omega) (by omega)
    rw [conditionsOf_cons, conditionsOf_cons, hbefore, hafter, ih _ fun m hm hm' => h m (by omega) (by omega)]

/-- A list makes no condition while a peer holds SDA low (R39). -/
theorem conditionsOf_peer_low {peer : Nat → Bit} {l : List Template} {n : Nat} (ld : LineDriver)
    (hlow : ∀ m, n ≤ m → m ≤ n + l.length → peer m = 0#1) : conditionsOf peer l n ld = [] := by
  rw [conditionsOf_congr (peer' := fun _ => 0#1) ld hlow]
  induction l generalizing n ld with
  | nil => rfl
  | cons p l ih =>
    rw [conditionsOf_cons, busCondition_peer_low, ih _ fun m hm hm' => hlow m (by omega) (by simp; omega)]
    rfl

/-- Of the conditions of two lists one after the other, those from the second's first position on are the second's. -/
theorem filter_conditionsOf_append (peer : Nat → Bit) (l r : List Template) (n : Nat) (ld : LineDriver) :
    (conditionsOf peer (l ++ r) n ld).filter (fun x => n + l.length ≤ x.1) =
      conditionsOf peer r (n + l.length) (l.foldl LineDriver.after ld) := by
  rw [conditionsOf_append, List.filter_append, List.filter_eq_nil_iff.mpr, List.filter_eq_self.mpr, List.nil_append]
  · intro x hx
    simpa using (conditionsOf_position hx).1
  · intro x hx
    have := (conditionsOf_position hx).2
    simpa using this

/-! ### The conditions of BUS_RESET -/

/-- While the peers hold their level the pulses make no condition: they move SCL alone (R150, R154). -/
theorem conditionsOf_repeat_pulse (r : Nat) (peer : Bit) (n : Nat) :
    conditionsOf (fun _ => peer) (repeatOps r pulse) n .idle = [] := by
  have hstill (scl : Bit) : sdaUnderSclLow scl (repeatOps r pulse) = true := by
    induction r generalizing scl with
    | zero => rfl
    | succ r ih => exact ih 1#1
  exact conditionsOf_of_sdaUnderSclLow rfl (hstill _) peer n

/-- With every peer released, what is left of BUS_RESET before one of its pulses makes START's condition and STOP's:
START's list begins at position 40 (R153, R154). -/
theorem conditionsOf_pulsesThenStartStop {r n : Nat} (hn : n + r * 4 = 40) :
    conditionsOf (fun _ => 1#1) (pulsesThenStartStop r) n .idle = [(45, .start), (52, .stop)] := by
  have hlength : (repeatOps r pulse).length = r * 4 := length_repeatOps r pulse
  rw [pulsesThenStartStop, conditionsOf_append, conditionsOf_repeat_pulse, foldl_after_repeat_pulse, hlength, hn]
  decide

/-- With every peer released throughout, BUS_RESET makes CONFIGURE's conditions, START's and STOP's (R125, R154). -/
theorem releasedConditions_busResetOps (ld : LineDriver) :
    releasedConditions busResetOps ld = releasedConditions configureOps ld ++ [(45, .start), (52, .stop)] := by
  rw [releasedConditions, busResetOps_eq, conditionsOf_append, foldl_after_configureOps,
    conditionsOf_pulsesThenStartStop rfl]
  rfl

/-- BUS_RESET's conditions before, in and after the HOLD(BR_HIGH) of a pulse, in which the latches do not move (R154). -/
theorem conditionsOf_busResetOps_at_pulseHigh (peer : Nat → Bit) {q r : Nat} (hqr : q + r = 8) (ld : LineDriver) :
    conditionsOf peer busResetOps 0 ld =
      conditionsOf peer (untilPulseHigh q) 0 ld ++
        ((busCondition .idle (peer (7 + 4 * q)) .idle (peer (8 + 4 * q))).toList.map (fun c => (7 + 4 * q, c)) ++
          conditionsOf peer (pulsesThenStartStop r) (8 + 4 * q) .idle) := by
  have hnext : 7 + 4 * q + 1 = 8 + 4 * q := by omega
  rw [busResetOps_at_pulseHigh hqr, conditionsOf_append, conditionsOf_cons, foldl_after_untilPulseHigh,
    length_untilPulseHigh, Nat.zero_add, hnext]
  rfl

/-- With SCL high and SDA left to the peers, their release is a STOP (R154). -/
theorem busCondition_idle_release : busCondition .idle 0#1 .idle 1#1 = some .stop :=
  (busCondition_of_latches_still rfl rfl).1

/-- A peer that releases SDA in the HOLD(BR_HIGH) of a pulse makes a STOP condition there (R154). -/
theorem stop_mem_conditionsOf_busResetOps {peer : Nat → Bit} {q : Nat} (hq : q < 9) (hbefore : peer (7 + 4 * q) = 0#1)
    (hafter : peer (8 + 4 * q) = 1#1) (ld : LineDriver) :
    (7 + 4 * q, .stop) ∈ conditionsOf peer busResetOps 0 ld := by
  rw [conditionsOf_busResetOps_at_pulseHigh peer (Nat.add_sub_cancel' (Nat.le_of_lt_succ hq)), hbefore, hafter,
    busCondition_idle_release]
  simp

/-- Where that peer has held SDA low until then, and no peer pulls it low after, this STOP is followed by START's
condition and STOP's only (R154). -/
theorem conditionsOf_busResetOps_release {peer : Nat → Bit} {q : Nat} (hq : q < 9)
    (hpeer : ∀ n, peer n = if n ≤ 7 + 4 * q then 0#1 else 1#1) (ld : LineDriver) :
    conditionsOf peer busResetOps 0 ld = [(7 + 4 * q, .stop), (45, .start), (52, .stop)] := by
  obtain ⟨r, hqr⟩ : ∃ r, q + r = 8 := ⟨8 - q, by omega⟩
  have hlow {n : Nat} (hn : n ≤ 7 + 4 * q) : peer n = 0#1 := by rw [hpeer, if_pos hn]
  have hhigh {n : Nat} (hn : 8 + 4 * q ≤ n) : peer n = 1#1 := by rw [hpeer, if_neg (by omega)]
  have hbefore : conditionsOf peer (untilPulseHigh q) 0 ld = [] :=
    conditionsOf_peer_low ld fun m _ hm => hlow (by simpa using hm)
  have hafter : conditionsOf peer (pulsesThenStartStop r) (8 + 4 * q) .idle = [(45, .start), (52, .stop)] := by
    rw [conditionsOf_congr (peer' := fun _ => 1#1) _ fun m hm _ => hhigh hm,
      conditionsOf_pulsesThenStartStop (by omega)]
  rw [conditionsOf_busResetOps_at_pulseHigh peer hqr, hbefore, hafter, hlow le_rfl, hhigh le_rfl,
    busCondition_idle_release]
  rfl

/-- From the SDA(0) of START's list on (R121): the line ops of BUS_RESET from position 45. -/
def fromStartCondition : List Template := [.sda 0#1, .hold .staHd] ++ stopOps

/-- BUS_RESET's conditions from position 45 on are those of its line ops from there on, which find the latches idle
(R154). -/
theorem filter_conditionsOf_busResetOps (peer : Nat → Bit) (ld : LineDriver) :
    (conditionsOf peer busResetOps 0 ld).filter (fun x => 45 ≤ x.1) = conditionsOf peer fromStartCondition 45 .idle :=
  filter_conditionsOf_append peer (busResetOps.take 45) fromStartCondition 0 ld

/-- With every peer released from there on, they are START's and STOP's (R154). -/
theorem conditionsOf_fromStartCondition_released :
    conditionsOf (fun _ => 1#1) fromStartCondition 45 .idle = [(45, .start), (52, .stop)] := by decide

/-- CONFIGURE's line ops make no condition from a named state that is not STARTED (R125). -/
theorem releasedConditions_configureOps_of_not_started {ld : LineDriver} {b0 k : Bit}
    (h : ld = .idle ∨ ld = .afterWrite b0 ∨ ld = .afterRead k) : releasedConditions configureOps ld = [] := by
  rcases h with rfl | rfl | rfl
  · exact releasedConditions_idle.1
  · exact (releasedConditions_scl_low .input b0).1
  · exact (releasedConditions_scl_low .output k).1

/-- Settles O52: the conditions of the run are those of the list, and each clause reads them off the part of the list
over which its peers hold their level. -/
theorem busResetConditions : Obligations.BusResetConditions := by
  intro s peer hr
  obtain ⟨-, t, hrun, -, ht⟩ := busResetCompletes s hr
  have hidle : t.ld = .idle := by rw [ht]; rfl
  have hconditions : busConditions peer 54 0 (s.accept 0x0008#16) = conditionsOf peer busResetOps 0 s.ld :=
    busConditions_command (i := .busReset) peer hr.2 (by decide)
  rw [hconditions]
  refine ⟨t, hrun, hidle, fun hpeer => ?releasedByStart, fun q hq hbefore hafter => ?releaseInPulse,
    fun hpeer => ?lowFromStart, fun hpeer => ?released, fun hpeer => ?low, fun q hq hpeer => ?lowUntilPulse⟩
  case releasedByStart =>
    refine ⟨?_, ?_, ?_⟩
    · rw [filter_conditionsOf_busResetOps, conditionsOf_congr (peer' := fun _ => 1#1) _ hpeer,
        conditionsOf_fromStartCondition_released]
    · rw [hidle, hpeer 54 (by decide) le_rfl]
      rfl
    · rw [hidle]
      rfl
  case releaseInPulse => exact stop_mem_conditionsOf_busResetOps hq hbefore hafter s.ld
  case lowFromStart =>
    refine ⟨?_, fun n u hn hn' _ => ?_⟩
    · rw [filter_conditionsOf_busResetOps, conditionsOf_peer_low _ hpeer]
    · rw [hpeer n hn hn', LineDriver.busSda_peer_low]
  case released =>
    obtain rfl : peer = fun _ => 1#1 := funext hpeer
    have hreleased : conditionsOf (fun _ => 1#1) busResetOps 0 s.ld =
        releasedConditions configureOps s.ld ++ [(45, .start), (52, .stop)] := releasedConditions_busResetOps s.ld
    rw [hreleased]
    refine ⟨fun b0 k hld => ?_, fun hld => ?_⟩
    · rw [releasedConditions_configureOps_of_not_started hld]
      rfl
    · rw [hld, releasedConditions_started.1]
      rfl
  case low => exact conditionsOf_peer_low s.ld fun m _ _ => hpeer m
  case lowUntilPulse => exact conditionsOf_busResetOps_release hq hpeer s.ld

end Sys2Proof.Machine
end

section
/-! WRITE_ADDRESS and READ_ADDRESS (spec/44_address_phase.md): each is the WRITE_SEQ of its address byte. -/

namespace Sys2Proof.Machine

/-- The bit that tells a write from a read stands at the low end of an address byte, so it is sent last (R76). -/
@[simp] theorem bitAt_append_zero (a : Address) (rw : Bit) : bitAt (a ++ rw) 0 = rw :=
  BitVec.extractLsb'_append_eq_right

/-! ### The end states -/

/-- Settles O21: WRITE_ADDRESS's list is the WRITE_SEQ of {a, 0}, which leaves its low bit in the latch of SDA. -/
theorem writeAddressCompletes : Obligations.WriteAddressCompletes := by
  intro s a hr
  have h := writeSeq_command_completes (b := a ++ 0#1) hr (decodeCommand_wordWriteAddress a) rfl fun _ => rfl
  rwa [State.afterWriteSeq, bitAt_append_zero] at h

/-- Settles O22: READ_ADDRESS's list is the WRITE_SEQ of {a, 1}, which leaves its low bit in the latch of SDA. -/
theorem readAddressCompletes : Obligations.ReadAddressCompletes := by
  intro s a hr
  have h := writeSeq_command_completes (b := a ++ 1#1) hr (decodeCommand_wordReadAddress a) rfl fun _ => rfl
  rwa [State.afterWriteSeq, bitAt_append_zero] at h

/-! ### Delegation to WRITE_BYTE -/

/-- Under two words, the runs of one WRITE_SEQ end in states that differ in E.CMD only. -/
theorem State.afterWriteSeq_withCmd (s : State) (c c' : Word) (b : Byte) :
    s.afterWriteSeq c' b = { s.afterWriteSeq c b with engine := { (s.afterWriteSeq c b).engine with cmd := c' } } := rfl

/-- A command whose list is WRITE_SEQ and whose result is the acknowledge runs as WRITE_BYTE of the same byte does, but
for E.CMD (R162). -/
theorem writeSeq_command_runs_as_writeByte {i : Instr} {c : Word} {b : Byte} {s : State} (hr : s.ready)
    (hc : decodeCommand c = .ok i) (hops : opsOf i = writeSeq b) (hresult : ∀ t : State, t.writeResult i = t.writeAck) :
    ∃ t u v, exec i s = .next t ∧ exec (.writeByte b) s = .next u ∧
      runFor 57 t = .next v ∧ runFor 57 u = .next { v with engine := { v.engine with cmd := b ++ 0x04#8 } } := by
  obtain ⟨haccept, v, hrun, -, rfl⟩ := writeSeq_command_completes hr hc hops hresult
  obtain ⟨hacceptByte, w, hrunByte, -, rfl⟩ :=
    writeSeq_command_completes hr (decodeCommand_wordWriteByte b) rfl fun _ => rfl
  refine ⟨_, _, _, haccept, hacceptByte, hrun, ?_⟩
  rw [← State.afterWriteSeq_withCmd]
  exact hrunByte

/-- Settles O34: both address commands have a WRITE_SEQ as their list and the acknowledge as their result. -/
theorem addressCommandIsByteCommand : Obligations.AddressCommandIsByteCommand := fun _ a hr =>
  ⟨writeSeq_command_runs_as_writeByte hr (decodeCommand_wordWriteAddress a) rfl fun _ => rfl,
    writeSeq_command_runs_as_writeByte hr (decodeCommand_wordReadAddress a) rfl fun _ => rfl⟩

end Sys2Proof.Machine
end

section
/-! Under the sequencer's invariant no step stops (spec/60_exceptions.md R200, R205): the line op in turn is one that the
Line Driver performs in the direction SDA has, and all else a step can do always answers a next state. -/

namespace Sys2Proof.Machine

/-- What is left of a command's list is drivable from the direction SDA has: the whole list is drivable from either
direction, and the line ops already performed have left SDA in this one (R56, R57). -/
theorem State.drivable_drop_of_inv {s : State} {i : Instr} (hb : s.engine.busy = true) (hi : s.Inv)
    (hc : decodeCommand s.engine.cmd = .ok i) : drivable s.ld.sdaDir ((opsOf i).drop s.engine.step) = true := by
  obtain ⟨-, -, hbusy⟩ := hi
  obtain ⟨-, hdir⟩ := hbusy hb
  rw [ops_of_decode hc] at hdir
  have hleft : (lastSdaDir ((opsOf i).take s.engine.step)).getD s.ld.sdaDir = s.ld.sdaDir := by
    by_cases hs : s.engine.step = 0
    · simp [hs, lastSdaDir]
    · rw [hdir hs, Option.getD_some]
  have hall := drivable_opsOf s.ld.sdaDir i
  rw [← List.take_append_drop s.engine.step (opsOf i), drivable_append, hleft, Bool.and_eq_true] at hall
  exact hall.2

/-- The Line Driver refuses no line op that a busy engine issues (R56, R57). -/
theorem State.exec_template_of_inv {s : State} {p : Template} (hb : s.engine.busy = true) (hi : s.Inv)
    (hp : s.template? = some p) : exec (lineOpOf p) s = .next (s.drive p) := by
  obtain ⟨i, hc⟩ := State.decode_of_template? hp
  have hdrop : (opsOf i).drop s.engine.step = p :: (opsOf i).drop (s.engine.step + 1) := by
    rw [State.template?, ops_of_decode hc] at hp
    obtain ⟨hlt, rfl⟩ := List.getElem?_eq_some_iff.mp hp
    exact List.drop_eq_getElem_cons hlt
  exact (exec_lineOpOf (hdrop ▸ State.drivable_drop_of_inv hb hi hc)).1

/-- A busy engine has a line op to perform, and performs it (R103). -/
theorem microStep_answers {s : State} (hb : s.engine.busy = true) (hi : s.Inv) : ∃ t, microStep s = .next t := by
  have ⟨_, _, hbusy⟩ := hi
  obtain ⟨hsome, -⟩ := hbusy hb
  obtain ⟨p, hp⟩ := Option.isSome_iff_exists.mp hsome
  exact ⟨_, microStep_eq hp (State.exec_template_of_inv hb hi hp)⟩

/-- An idle engine takes every word it is offered, legal or not (R100, R101, R200). -/
theorem idleStep_answers {s : State} (hb : s.engine.busy = false) : ∃ t, idleStep s = .next t := by
  unfold idleStep
  split
  · exact ⟨_, rfl⟩
  · rename_i c cs _
    cases hc : decodeCommand c with
    | ok i => exact ⟨_, (takeWord_of_ok hc _).trans (exec_of_decode hc hb)⟩
    | error e => exact ⟨_, takeWord_of_error hc _⟩

/-- Whatever the outside does but drive the Line Driver itself, a step under the invariant answers a next state: an engine
that is busy performs a line op or waits, one that is idle takes a word or waits, and block reset never fails
(R111, R204). -/
theorem stepUnder_answers {e : Event} {s : State} (he : e.isLineOp = false) (hi : s.Inv) :
    ∃ t, stepUnder e s = .next t := by
  have choice {f g : State → Result} (hf : s.engine.busy = true → ∃ t, f s = .next t)
      (hg : s.engine.busy = false → ∃ t, g s = .next t) : ∃ t, (if s.engine.busy then f s else g s) = .next t := by
    split
    · exact hf ‹_›
    · exact hg (Bool.eq_false_iff.mpr ‹_›)
  cases e with
  | run => exact choice (microStep_answers · hi) idleStep_answers
  | hostIdle => exact choice (g := .next) (microStep_answers · hi) fun _ => ⟨s, rfl⟩
  | stall => exact choice (f := .next) (fun _ => ⟨s, rfl⟩) idleStep_answers
  | blockReset done => exact ⟨_, rfl⟩
  | lineOp w => cases he

/-- Settles O37: of the events only another agent's line op can be refused, and the invariant excludes it. -/
theorem invNeverStops : Obligations.InvNeverStops := by
  intro s hi
  cases he : s.events with
  | nil =>
    rw [step_of_nil he]
    exact stepUnder_answers (e := .run) rfl hi
  | cons e es =>
    have ⟨hx, _⟩ := hi
    have hevent : e.isLineOp = false := by
      rw [State.exclusive, he, List.all_cons, Bool.and_eq_true] at hx
      obtain ⟨hhead, -⟩ := hx
      simpa using hhead
    have hpop : s.popEvent = { s with events := es } := by simp [State.popEvent, he]
    rw [step_of_cons he, ← hpop]
    exact stepUnder_answers hevent hi.popEvent

end Sys2Proof.Machine
end

section
/-! Every run of a host program ends (spec/70_reset_and_hazards.md R231, R236): each step under the invariant brings the
end nearer by a count of the steps left. -/

namespace Sys2Proof.Machine

/-- Every step takes one event off the queue of the outside, whatever else it does (R111). -/
theorem step_events {s t : State} (h : step s = .next t) : t.events = s.events.tail := by
  rcases step_cases h with ⟨done, es, -, hr⟩ | ⟨w, es, -, hl⟩ | ⟨-, rfl⟩ | ⟨-, rfl⟩ | ⟨hb, c, cs, -, ht⟩ | ⟨-, hm⟩
  · obtain rfl := Host.Outcome.next.inj hr
    cases done <;> simp [State.popEvent]
  · unfold lineOpStep at hl
    split at hl
    · rename_i i hi
      obtain ⟨-, -, -, he, -⟩ := exec_lineOp_frame (decodeLineOp_isLineOp hi) hl
      exact he
    · cases hl
  · rfl
  · rfl
  · rcases takeWord_next ht hb with ⟨_, _, -, rfl⟩ | ⟨_, -, rfl⟩ <;> rfl
  · obtain ⟨p, u, -, hu, rfl⟩ := microStep_next hm
    obtain ⟨-, -, -, he, -⟩ := exec_lineOp_frame (lineOpOf_isCommand p) hu
    obtain ⟨-, -, -, -, hretire, -⟩ := u.retire_frame p
    exact hretire.trans he

/-- A bound on the steps to the end of the run: for a word not yet taken one step to take it and as many as the longest
list has line ops, and for a command in progress those of its line ops that are left (R102, R103). -/
def State.stepsLeft (s : State) : Nat := 58 * s.offers.length + if s.engine.busy then 57 - s.engine.step else 0

theorem State.stepsLeft_of_busy {s : State} (hb : s.engine.busy = true) :
    s.stepsLeft = 58 * s.offers.length + (57 - s.engine.step) := by simp [stepsLeft, hb]

theorem State.stepsLeft_of_idle {s : State} (hb : s.engine.busy = false) : s.stepsLeft = 58 * s.offers.length := by
  simp [stepsLeft, hb]

/-- A command in progress leaves fewer steps than one more word would. -/
theorem State.stepsLeft_lt (s : State) : s.stepsLeft < 58 * (s.offers.length + 1) := by
  unfold stepsLeft
  split <;> omega

/-- While BUSY = 1 a line op is left, so E.STEP has not reached the length of the longest list (R23, R103). -/
theorem State.Inv.step_lt_of_busy {s : State} (hi : s.Inv) (hb : s.engine.busy = true) : s.engine.step < 57 := by
  obtain ⟨-, -, hbusy⟩ := hi
  obtain ⟨hsome, -⟩ := hbusy hb
  obtain ⟨p, hp⟩ := Option.isSome_iff_exists.mp hsome
  obtain ⟨i, hc⟩ := State.decode_of_template? hp
  obtain ⟨-, hlength⟩ := length_ops_of_decode hc
  exact Nat.lt_of_lt_of_le (State.template?_lt hp) hlength

/-- A micro-step leaves fewer steps: it advances E.STEP or ends the command (R103). -/
theorem stepsLeft_lt_of_busy {s t : State} (hi : s.Inv) (hb : s.engine.busy = true) (he : s.events = [])
    (h : step s = .next t) : t.stepsLeft < s.stepsLeft := by
  have hoffers := step_offers_of_busy hb h
  obtain ⟨hstep, -, -⟩ := stepCounterMovesByOne s t hb he h
  have hlt := hi.step_lt_of_busy hb
  rw [State.stepsLeft_of_busy hb]
  cases hend : t.engine.busy with
  | true => rw [State.stepsLeft_of_busy hend, hoffers]; omega
  | false => rw [State.stepsLeft_of_idle hend, hoffers]; omega

/-- The taking of a word leaves fewer steps, legal or not: one word less is on offer (R100, R101). -/
theorem stepsLeft_lt_of_offer {s t : State} {c : Word} {cs : List Word} (hr : s.ready) (ho : s.offers = c :: cs)
    (h : step s = .next t) : t.stepsLeft < s.stepsLeft := by
  have ⟨hb, _⟩ := hr
  rw [step_of_offer hr ho] at h
  obtain ⟨hoffers, -⟩ := takeWord_status h hb
  calc t.stepsLeft
    _ < 58 * (t.offers.length + 1) := t.stepsLeft_lt
    _ = s.stepsLeft := by rw [State.stepsLeft_of_idle hb, ho, hoffers, List.length_cons]

/-- With nothing but the host's words from outside, a run under the invariant ends within the bound (R231, R236). -/
theorem run_ends_within_stepsLeft {s : State} (hi : s.Inv) (he : s.events = []) :
    ∃ n ≤ s.stepsLeft, ∃ t, runFor n s = .next t ∧ t.runEnded := by
  induction hk : s.stepsLeft using Nat.strong_induction_on generalizing s with
  | _ k ih =>
    by_cases hend : s.runEnded
    · exact ⟨0, Nat.zero_le _, s, rfl, hend⟩
    · obtain ⟨t, ht⟩ := invNeverStops s hi
      have hlt : t.stepsLeft < s.stepsLeft := by
        cases hb : s.engine.busy with
        | true => exact stepsLeft_lt_of_busy hi hb he ht
        | false =>
          obtain ⟨c, cs, ho⟩ := List.exists_cons_of_ne_nil fun ho => hend ⟨ho, hb⟩
          exact stepsLeft_lt_of_offer ⟨hb, he⟩ ho ht
      obtain ⟨n, hn, u, hrun, hu⟩ :=
        ih t.stepsLeft (hk ▸ hlt) (invKeptByEveryStep s t hi ht) (by rw [step_events ht, he, List.tail_nil]) rfl
      exact ⟨n + 1, by omega, u, (runFor_succ n ht).trans hrun, hu⟩

/-- Settles O40: the invariant lets every step answer, and each step brings the end nearer. -/
theorem everyHostProgramEnds : Obligations.EveryHostProgramEnds := fun _ hi he =>
  let ⟨n, _, t, hrun, hend⟩ := run_ends_within_stepsLeft hi he
  ⟨n, t, hrun, hend⟩

end Sys2Proof.Machine
end

section
/-! Reset (spec/70_reset_and_hazards.md R220 to R222): what it leaves in the engine, in the status word and in the Line
Driver. -/

namespace Sys2Proof.Machine

/-- The line op in flight that takes effect under block reset is not observed (R221). -/
@[simp] theorem State.finishInFlight_trace (s : State) : s.finishInFlight.trace = s.trace := by
  rcases s.finishInFlight_cases with h | ⟨p, -, h⟩
  · rw [h]
  · obtain ⟨-, -, -, -, ht⟩ := exec_lineOp_frame (lineOpOf_isCommand p) h
    exact ht

/-- The line op in flight leaves under block reset what it leaves in the Line Driver at any time (R221). -/
theorem State.finishInFlight_of_exec {s u : State} {i : Instr} (hi : s.lineOp? = some i) (hu : exec i s = .next u) :
    s.finishInFlight = u := by
  simp [finishInFlight, hi, hu]

/-- Settles O55: both outcomes for the line op in flight end in `State.resetEngine`, and the line op reaches neither the
outside's queues nor the observation. -/
theorem blockResetSetsEveryField : Obligations.BlockResetSetsEveryField := by
  intro s done es he
  cases done with
  | false => exact ⟨_, step_of_cons he, rfl, rfl, rfl, rfl, rfl, rfl⟩
  | true => exact ⟨_, step_of_cons he, rfl, rfl, by simp, by simp, by simp, rfl⟩

/-- Settles O56: `State.resetEngine` moves no latch, so the latches are those of the state before it: as they were, or as
the line op in flight leaves them. -/
theorem blockResetAdmitsBothOutcomes : Obligations.BlockResetAdmitsBothOutcomes := by
  refine fun s es => ⟨fun he => ⟨_, step_of_cons he, rfl⟩, fun he => ⟨fun hb => ?idle, fun i u hi hu => ?inFlight⟩⟩
  case idle =>
    refine ⟨_, step_of_cons he, ?_⟩
    rw [if_pos rfl, State.finishInFlight_of_idle (s := { s with events := es }) hb, State.resetEngine_ld]
  case inFlight =>
    refine ⟨_, step_of_cons he, ?_⟩
    rw [if_pos rfl, State.finishInFlight_of_exec (s := { s with events := es }) hi hu, State.resetEngine_ld]

/-- Settles O57: the fields are those of `Engine.reset` and `Status.reset`, and STATUS is computed from them. -/
theorem resetState : Obligations.ResetState := ⟨rfl, rfl, by decide, rfl⟩

end Sys2Proof.Machine
end

section
/-! How many line ops, SCL(1) ops and GET_SDAs a command has, and the least time it takes
(spec/70_reset_and_hazards.md R234). -/

namespace Sys2Proof.Machine

/-! ### Counts -/

/-- The three counts of R234 of a list: its line ops, SCL(1) ops and GET_SDAs. -/
def countsOf (l : List Template) : Nat × Nat × Nat := (l.length, l.count (.scl 1#1), (l.map lineOpOf).count .getSda)

theorem count_repeatOps (n : Nat) (l : List Template) (p : Template) : (repeatOps n l).count p = n * l.count p := by
  simp [repeatOps, List.count_flatten]

theorem count_sclHigh_bitOut (v : Bit) : (bitOut v).count (.scl 1#1) = 1 := rfl

/-- WRITE_SEQ raises SCL once for each bit and once for the acknowledge, its one sample, whatever the byte is (R132). -/
theorem countsOf_writeSeq (b : Byte) : countsOf (writeSeq b) = (57, 9, 1) := by
  have hclock : (writeSeq b).count (.scl 1#1) = 9 := by
    simp only [writeSeq, bitsOut, List.count_append, count_sclHigh_bitOut]
    rfl
  rw [countsOf, length_writeSeq, hclock, count_getSda, sampleCount_writeSeq]

/-- READ_SEQ raises SCL once for each bit, which it samples, and once for the acknowledge it sends, whatever that is
(R135). -/
theorem countsOf_readSeq (k : Bit) : countsOf (readSeq k) = (50, 9, 8) := by
  have hclock : (readSeq k).count (.scl 1#1) = 9 := by
    simp only [readSeq, List.count_append, count_repeatOps]
    rfl
  rw [countsOf, length_readSeq, hclock, count_getSda, sampleCount_readSeq]

/-- Settles O32: the lists of the commands without an operand are counted as they stand, the others by WRITE_SEQ and
READ_SEQ. -/
theorem lineOpCounts : Obligations.LineOpCounts := fun b k a =>
  ⟨rfl, rfl, rfl, countsOf_writeSeq b, countsOf_readSeq k, countsOf_writeSeq (addrByte a rwWrite),
    countsOf_writeSeq (addrByte a rwRead), rfl⟩

/-! ### Times -/

/-- The time of one hold: HOLD_MULT(site) × HOLD_UNIT (R52). -/
def holdTime (site : HoldSite) : Nat := (holdMult site).toNat * Config.holdUnit

theorem minDuration_startOps : minDuration startOps = holdTime .staSu + holdTime .staHd := rfl

theorem minDuration_stopOps : minDuration stopOps = holdTime .stoSu + holdTime .stoBuf := rfl

theorem minDuration_bitOut (v : Bit) :
    minDuration (bitOut v) = holdTime .wbLow + holdTime .wbData + holdTime .wbHigh := by
  simp [bitOut, minDuration, holdTime, Nat.add_assoc]

/-- A WRITE_SEQ waits as long whatever its byte is: the bits set SDA's level only (R130 to R132). -/
theorem minDuration_writeSeq (b : Byte) :
    minDuration (writeSeq b) =
      8 * holdTime .wbLow + 8 * holdTime .wbData + 8 * holdTime .wbHigh + holdTime .raLow + holdTime .raHigh := by
  have hdir : minDuration (setDir .output) = 0 := rfl
  have hend : minDuration endOfBits = 0 := rfl
  have hack : minDuration recvAck = holdTime .raLow + holdTime .raHigh := rfl
  simp only [writeSeq, bitsOut, minDuration_append, minDuration_bitOut, hdir, hend, hack]
  omega

/-- A READ_SEQ waits as long whatever it acknowledges (R133 to R135). -/
theorem minDuration_readSeq (k : Bit) :
    minDuration (readSeq k) =
      8 * holdTime .rbLow + 8 * holdTime .rbHigh + holdTime .saLow + holdTime .saData + holdTime .saHigh := by
  have hdir : minDuration (setDir .input) = 0 := rfl
  have hbit : minDuration bitIn = holdTime .rbLow + holdTime .rbHigh := rfl
  have hend : minDuration endOfBits = 0 := rfl
  have hack : minDuration (sendAck k) = holdTime .saLow + (holdTime .saData + holdTime .saHigh) := rfl
  simp only [readSeq, minDuration_append, minDuration_repeatOps, hdir, hbit, hend, hack]
  omega

/-- BUS_RESET waits in its nine pulses, and as START and STOP do (R151). -/
theorem minDuration_busResetOps :
    minDuration busResetOps =
      9 * holdTime .brLow + 9 * holdTime .brHigh + holdTime .staSu + holdTime .staHd + holdTime .stoSu +
        holdTime .stoBuf := by
  have hlines : minDuration linesHigh = 0 := rfl
  have hpulse : minDuration pulse = holdTime .brLow + holdTime .brHigh := rfl
  simp only [busResetOps, minDuration_append, minDuration_repeatOps, minDuration_startOps, minDuration_stopOps, hlines,
    hpulse, Config.recoveryPulses]
  omega

/-- Settles O33: each list's time is the sum over its parts, and an address command's list is a WRITE_SEQ. -/
theorem holdTimes : Obligations.HoldTimes := fun b k a =>
  ⟨rfl, minDuration_startOps, minDuration_stopOps, minDuration_writeSeq b, minDuration_writeSeq (addrByte a rwWrite),
    minDuration_writeSeq (addrByte a rwRead), minDuration_readSeq k, minDuration_busResetOps⟩

end Sys2Proof.Machine
end

section
/-! The line ops the Line Driver refuses (spec/93_implementation_defined.md I8, I9): what SDA's direction does not allow. -/

namespace Sys2Proof.Machine

/-- GET_SDA has no meaning while SDA is an output (I8). -/
theorem exec_getSda_of_output {s : State} (hd : s.ld.sdaDir = .output) :
    exec .getSda s = .refused .sampleWhileOutput := by
  simp [exec, execGetSda, hd]

/-- SDA_LVL has no meaning while SDA is an input (I9). -/
theorem exec_sdaLvl_of_input {s : State} (v : Bit) (hd : s.ld.sdaDir = .input) :
    exec (.sdaLvl v) s = .refused .driveWhileInput := by
  simp [exec, execSdaLvl, hd]

/-- Settles O28: each of the two line ops is answered by SDA's direction alone. -/
theorem refusedLineOps : Obligations.RefusedLineOps :=
  ⟨fun _ hd => exec_getSda_of_output hd, fun v _ hd => exec_sdaLvl_of_input v hd⟩

end Sys2Proof.Machine
end
